-- ==== Sys2Proof/Word.lean ====
section
/-! DEFINITION. Word.lean: the byte, the one word type of the part's links (R191). -/

namespace Sys2Proof

/-- One byte of a frame, a name, a label or a label key. -/
abbrev Byte := BitVec 8

end Sys2Proof
end

