-- ==== Sys2Proof/Syntax.lean ====
section
/-! DEFINITION. Syntax.lean: the commands of the part, one constructor for each row of spec/opcode_table.json.

A request command carries first `src`, the number it is sent on behalf of: 0 for the concourse controller, 1 to 32 for a
drop (R167, R184); then the fields of R191 section 11.3 in their order. `src` is followed by the fields as the frame holds
them, in range or not: the owning block's own checks judge them. -/

namespace Sys2Proof

/-- The two conditions that hold the internal reset (R14). -/
inductive ResetCause where
  | pinLow
  | supplyNotGood
  deriving DecidableEq, Repr

/-- One character received on a lane (R171, R174). `delayNs` is the time from the end of the stop bit before it (for the
first character, of the poll's last character) to its start, in nanoseconds. -/
structure LaneChar where
  delayNs  : Nat
  data     : Byte
  mark     : Bool
  stopHigh : Bool
  deriving DecidableEq, Repr

/-- One entry of a SPLIT's assignment list: a line index and a share set, a 12-bit map in which bit j - 1 stands for
share j (R127, R191). -/
structure SplitEntry where
  index : Nat
  set   : BitVec 12
  deriving DecidableEq, Repr

/-- The request kinds of R191 section 11.2. -/
inductive ReqKind where
  | openTab | addLine | voidLine | setLabel | setService | closeEmpty | mergeTabs
  | send | fire | split | assign | unsplit | tenderBegin | tenderCommit | tenderCancel
  | quote | findTab | readTab
  | bump | recall | markSoldOut | redrawMe
  | loadItem | setPrice | setStock | loadTax | loadStation | setConfig | setLaneRole | laneRestart
  | setPeriod | endDay | readAlert | readDrawer | closeDrawer | writeOff | killTicket | readConfig
  deriving DecidableEq, Repr

/-- The commands: the part's own events, then the requests, then the end of a poll. -/
inductive Instr where
  | resetHold (cause : ResetCause)
  | resetRelease (cause : ResetCause) (cfgHigh : Bool)
  | settleEnd
  | secondsTick
  | holdExpiry (tab share : Nat)
  | recallWindowExpiry (station : Nat)
  | overdueRise (ticket : Nat)
  | poll (lane : Fin 4)
  | answerMiss (lane : Fin 4)
  | goodAnswer (lane : Fin 4) (chars : List LaneChar)
  | chipSelectFall (highMicros : Nat)
  | chipSelectRise (bytes : List Byte)
  | openTab (src kind : Nat) (label : List Byte)
  | addLine (src tab rev item qty : Nat) (mods : List Nat)
  | voidLine (src tab rev index : Nat)
  | setLabel (src tab rev : Nat) (label : List Byte)
  | setService (src tab rev rate : Nat)
  | closeEmpty (src tab rev : Nat)
  | mergeTabs (src tabA revA tabB revB : Nat)
  | send (src tab : Nat) (hold rush : Bool)
  | fire (src tab : Nat)
  | split (src tab rev n : Nat) (entries : List SplitEntry)
  | assign (src tab rev index : Nat) (set : BitVec 12)
  | unsplit (src tab rev : Nat)
  | tenderBegin (src tab share : Nat)
  | tenderCommit (src tab share kind tendered tip : Nat)
  | tenderCancel (src tab share : Nat)
  | quote (src item : Nat)
  | findTab (src form startAfter : Nat) (key : List Byte)
  | readTab (src tab page : Nat)
  | bump (src ticket : Nat)
  | recall (src : Nat)
  | markSoldOut (src item : Nat)
  | redrawMe (src : Nat)
  | loadItem (src item kind : Nat) (name : List Byte) (price cls route prep restricted low : Nat)
  | setPrice (src item price : Nat)
  | setStock (src item : Nat) (stock : Option Nat)
  | loadTax (src cls rate : Nat)
  | loadStation (src drop depth limit crew fallback prep interval : Nat)
  | setConfig (src hold : Nat) (settings : Vector (Nat × Nat) 4)
  | setLaneRole (src lane role : Nat)
  | laneRestart (src lane : Nat)
  | setPeriod (src period : Nat)
  | endDay (src : Nat)
  | readAlert (src : Nat)
  | readDrawer (src drawer : Nat)
  | closeDrawer (src drawer : Nat)
  | writeOff (src tab : Nat)
  | killTicket (src ticket : Nat)
  | readConfig (src : Nat)
  | pollEnd (lane : Fin 4)
  deriving DecidableEq, Repr

end Sys2Proof
end

