-- ==== Sys2Proof/WellFormed.lean ====
section
/-! DEFINITION. WellFormed.lean: the commands a sender can spell. A request's fields fit the widths R191 gives them, its
lists the lengths R192 allows, and its source is the concourse controller or a drop (R167). A lane event names no field.
Nothing here judges a value that the owning block refuses by a result: those commands are well formed. -/

namespace Sys2Proof

/-- The value fits a field of `w` bytes (R191). -/
def fits (w v : Nat) : Bool := decide (v < 256 ^ w)

/-- The number is a request's source: 0 for the concourse controller, or a drop 1 to 32 (R167, R184). -/
def isSource (n : Nat) : Bool := decide (n ≤ 32)

/-- The command is one a sender can spell. -/
def WellFormed : Instr → Bool
  | .resetHold _ | .resetRelease _ _ | .settleEnd | .secondsTick => true
  | .poll _ | .answerMiss _ | .pollEnd _ | .chipSelectFall _ | .chipSelectRise _ | .goodAnswer _ _ => true
  | .holdExpiry tab share => fits 2 tab && fits 1 share
  | .recallWindowExpiry station => fits 1 station
  | .overdueRise ticket => fits 2 ticket
  | .openTab src kind label => isSource src && fits 1 kind && decide (label.length ≤ 16)
  | .addLine src tab rev item qty mods =>
      isSource src && fits 2 tab && fits 2 rev && fits 2 item && fits 1 qty && decide (mods.length ≤ 4) && mods.all (fits 2)
  | .voidLine src tab rev index => isSource src && fits 2 tab && fits 2 rev && fits 1 index
  | .setLabel src tab rev label => isSource src && fits 2 tab && fits 2 rev && decide (label.length ≤ 16)
  | .setService src tab rev rate => isSource src && fits 2 tab && fits 2 rev && fits 2 rate
  | .closeEmpty src tab rev | .unsplit src tab rev => isSource src && fits 2 tab && fits 2 rev
  | .mergeTabs src a ra b rb => isSource src && fits 2 a && fits 2 ra && fits 2 b && fits 2 rb
  | .send src tab _ _ | .fire src tab | .writeOff src tab => isSource src && fits 2 tab
  | .split src tab rev n entries =>
      isSource src && fits 2 tab && fits 2 rev && fits 1 n && decide (entries.length ≤ 20) &&
        entries.all (fun e => decide (e.index < 128))
  | .assign src tab rev index _ => isSource src && fits 2 tab && fits 2 rev && fits 1 index
  | .tenderBegin src tab share | .tenderCancel src tab share => isSource src && fits 2 tab && fits 1 share
  | .tenderCommit src tab share kind tendered tip =>
      isSource src && fits 2 tab && fits 1 share && fits 1 kind && fits 4 tendered && fits 3 tip
  | .quote src item | .markSoldOut src item => isSource src && fits 2 item
  | .findTab src form start key =>
      isSource src && fits 1 form && fits 2 start && decide (if form = 1 then key.length = 1 else key.length ≤ 16)
  | .readTab src tab page => isSource src && fits 2 tab && fits 1 page
  | .bump src ticket | .killTicket src ticket => isSource src && fits 2 ticket
  | .recall src | .redrawMe src | .endDay src | .readAlert src | .readConfig src => isSource src
  | .loadItem src item kind name price cls route prep restricted low =>
      isSource src && fits 2 item && fits 1 kind && decide (name.length = 16) && fits 3 price && fits 1 cls &&
        fits 1 route && fits 2 prep && fits 1 restricted && fits 2 low
  | .setPrice src item price => isSource src && fits 2 item && fits 3 price
  | .setStock src item stock => isSource src && fits 2 item && (match stock with | none => true | some c => decide (c < 65535))
  | .loadTax src cls rate => isSource src && fits 1 cls && fits 2 rate
  | .loadStation src drop depth limit crew fallback prep interval =>
      isSource src && fits 1 drop && fits 1 depth && fits 1 limit && fits 1 crew && fits 1 fallback && fits 2 prep && fits 2 interval
  | .setConfig src hold settings => isSource src && fits 2 hold && settings.toList.all (fun x => fits 1 x.1 && fits 1 x.2)
  | .setLaneRole src lane role => isSource src && fits 1 lane && fits 1 role
  | .laneRestart src lane => isSource src && fits 1 lane
  | .setPeriod src period => isSource src && fits 1 period
  | .readDrawer src drawer | .closeDrawer src drawer => isSource src && fits 1 drawer

end Sys2Proof
end

