-- ==== Sys2Proof/Decode.lean ====
section
/-! DEFINITION. Decode.lean: the frames of R191 read and written: the check, the kind codes, and the payload of every
request (section 11.3) with the form rules of R192. The opcode table gives its rows no bits, so no word spells a command
(`decodeTableWord`). -/

namespace Sys2Proof

/-- The bits of no row of spec/opcode_table.json are given, so no word spells a command. -/
def decodeTableWord (_nbits _w : Nat) : Option Instr := none

/-- A number of `w` bytes, high byte first (R191). -/
def be : Nat → Nat → List Byte
  | 0, _ => []
  | w + 1, v => BitVec.ofNat 8 (v / 256 ^ w) :: be w v

/-- The number that bytes spell, high byte first (R191). -/
def unbe (bs : List Byte) : Nat := bs.foldl (fun acc b => acc * 256 + b.toNat) 0

/-- The field of `w` bytes that starts at byte `off` of a payload. -/
def fieldAt (p : List Byte) (off w : Nat) : Nat := unbe ((p.drop off).take w)

/-- One bit of the check's register: the polynomial is x^16 + x^12 + x^5 + 1 (R171, R191). -/
def checkShift (r : BitVec 16) : BitVec 16 := if r.msb then (r <<< 1) ^^^ 0x1021#16 else r <<< 1

/-- One byte into the check, most significant bit first (R191). -/
def checkByte (r : BitVec 16) (b : Byte) : BitVec 16 :=
  let r0 := r ^^^ (b.setWidth 16 <<< 8)
  checkShift (checkShift (checkShift (checkShift (checkShift (checkShift (checkShift (checkShift r0)))))))

/-- The check over the bytes given, from a register of all ones (R171, R191). -/
def check (bs : List Byte) : BitVec 16 := bs.foldl checkByte 0xFFFF#16

/-- A frame: address, kind, length, payload, check high byte first (R171, R191 section 11.1). -/
def frameBytes (address kind : Nat) (payload : List Byte) : List Byte :=
  let body := BitVec.ofNat 8 address :: BitVec.ofNat 8 kind :: BitVec.ofNat 8 payload.length :: payload
  body ++ be 2 (check body).toNat

/-- The kind codes of the requests (R191 section 11.2). -/
def ReqKind.code : ReqKind → Nat
  | .openTab => 0x01 | .addLine => 0x02 | .voidLine => 0x03 | .setLabel => 0x04
  | .setService => 0x05 | .closeEmpty => 0x06 | .mergeTabs => 0x07
  | .send => 0x08 | .fire => 0x09 | .split => 0x0A | .assign => 0x0B
  | .unsplit => 0x0C | .tenderBegin => 0x0D | .tenderCommit => 0x0E | .tenderCancel => 0x0F
  | .quote => 0x10 | .findTab => 0x11 | .readTab => 0x12
  | .bump => 0x20 | .recall => 0x21 | .markSoldOut => 0x22 | .redrawMe => 0x23
  | .loadItem => 0x30 | .setPrice => 0x31 | .setStock => 0x32 | .loadTax => 0x33
  | .loadStation => 0x34 | .setConfig => 0x35 | .setLaneRole => 0x36 | .laneRestart => 0x37
  | .setPeriod => 0x38 | .endDay => 0x39 | .readAlert => 0x3A | .readDrawer => 0x3B
  | .closeDrawer => 0x3C | .writeOff => 0x3D | .killTicket => 0x3E | .readConfig => 0x3F

/-- Every request kind, in the order of its code. -/
def ReqKind.all : List ReqKind :=
  [.openTab, .addLine, .voidLine, .setLabel, .setService, .closeEmpty, .mergeTabs,
   .send, .fire, .split, .assign, .unsplit, .tenderBegin, .tenderCommit, .tenderCancel,
   .quote, .findTab, .readTab, .bump, .recall, .markSoldOut, .redrawMe,
   .loadItem, .setPrice, .setStock, .loadTax, .loadStation, .setConfig, .setLaneRole, .laneRestart,
   .setPeriod, .endDay, .readAlert, .readDrawer, .closeDrawer, .writeOff, .killTicket, .readConfig]

/-- The request a kind byte names; none for every other kind (R192). -/
def ReqKind.ofCode (c : Nat) : Option ReqKind := ReqKind.all.find? (fun k => k.code == c)

/-- Two SPLIT entries from five bytes: 40 bits, the earlier entry in the high 20 (R191 section 11.3.1). Bit 19 of an entry
is ignored (R192). -/
def splitEntryOf (v : Nat) : SplitEntry := ⟨v / 4096 % 128, BitVec.ofNat 12 v⟩

/-- The 20 bits of a SPLIT entry: bits 0 to 11 the set, bits 12 to 18 the index, bit 19 clear (R191 section 11.3.1). -/
def splitEntryBits (e : SplitEntry) : Nat := e.set.toNat + 4096 * (e.index % 128)

/-- The entries of a SPLIT's list, two to each five bytes, a last odd one in three (R191 section 11.3.1). -/
def decodeEntries : List Byte → List SplitEntry
  | a :: b :: c :: d :: e :: rest =>
      let v := unbe [a, b, c, d, e]
      splitEntryOf (v / 1048576) :: splitEntryOf (v % 1048576) :: decodeEntries rest
  | [a, b, c] => [splitEntryOf (unbe [a, b, c] / 16)]
  | _ => []

/-- The bytes of a SPLIT's list (R191 section 11.3.1). -/
def encodeEntries : List SplitEntry → List Byte
  | e :: f :: rest => be 5 (splitEntryBits e * 1048576 + splitEntryBits f) ++ encodeEntries rest
  | [e] => be 3 (splitEntryBits e * 16)
  | [] => []

/-- A SPLIT's list of `m` bytes holds 0 to 20 whole entries: 5k/2 rounded up (R192). -/
def splitListLength (m : Nat) : Bool := decide ((m % 5 = 0 ∨ m % 5 = 3) ∧ m ≤ 50)

/-- The modifier items of an ADD-LINE, two bytes each (R191 section 11.3). -/
def decodeMods : List Byte → List Nat
  | a :: b :: rest => unbe [a, b] :: decodeMods rest
  | _ => []

/-- The bytes of a modifier list. -/
def encodeMods (mods : List Nat) : List Byte := mods.flatMap (be 2)

/-- The stock field: FFFFh for UNTRACKED (R191). -/
def stockOf (v : Nat) : Option Nat := if v = 65535 then none else some v

/-- The stock field of a count or UNTRACKED (R191). -/
def stockField : Option Nat → Nat
  | none => 65535
  | some c => c

/-- The command answered when the payload has the length its kind requires (R192). -/
def withLength (p : List Byte) (len : Nat) (i : Instr) : Option Instr := if p.length = len then some i else none

/-- The request a frame of a kind and payload carries on behalf of `src`; none where its length is not one the kind allows
(R192). The form check reads the kind, the length and, for FIND-TAB, the form byte, and nothing else. -/
def decodeRequest (src : Nat) (k : ReqKind) (p : List Byte) : Option Instr :=
  let f := fieldAt p
  match k with
  | .openTab => if 1 ≤ p.length ∧ p.length ≤ 17 then some (.openTab src (f 0 1) (p.drop 1)) else none
  | .addLine =>
      if 7 ≤ p.length ∧ p.length ≤ 15 ∧ p.length % 2 = 1 then
        some (.addLine src (f 0 2) (f 2 2) (f 4 2) (f 6 1) (decodeMods (p.drop 7)))
      else none
  | .voidLine => withLength p 5 (.voidLine src (f 0 2) (f 2 2) (f 4 1))
  | .setLabel => if 4 ≤ p.length ∧ p.length ≤ 20 then some (.setLabel src (f 0 2) (f 2 2) (p.drop 4)) else none
  | .setService => withLength p 6 (.setService src (f 0 2) (f 2 2) (f 4 2))
  | .closeEmpty => withLength p 4 (.closeEmpty src (f 0 2) (f 2 2))
  | .mergeTabs => withLength p 8 (.mergeTabs src (f 0 2) (f 2 2) (f 4 2) (f 6 2))
  | .send => withLength p 3 (.send src (f 0 2) ((f 2 1).testBit 0) ((f 2 1).testBit 1))
  | .fire => withLength p 2 (.fire src (f 0 2))
  | .split =>
      if 5 ≤ p.length ∧ splitListLength (p.length - 5) then
        some (.split src (f 0 2) (f 2 2) (f 4 1) (decodeEntries (p.drop 5)))
      else none
  | .assign => withLength p 7 (.assign src (f 0 2) (f 2 2) (f 4 1) (BitVec.ofNat 12 (f 5 2)))
  | .unsplit => withLength p 4 (.unsplit src (f 0 2) (f 2 2))
  | .tenderBegin => withLength p 3 (.tenderBegin src (f 0 2) (f 2 1))
  | .tenderCommit => withLength p 11 (.tenderCommit src (f 0 2) (f 2 1) (f 3 1) (f 4 4) (f 8 3))
  | .tenderCancel => withLength p 3 (.tenderCancel src (f 0 2) (f 2 1))
  | .quote => withLength p 2 (.quote src (f 0 2))
  | .findTab =>
      if (if f 0 1 = 1 then p.length = 4 else 3 ≤ p.length ∧ p.length ≤ 19) then
        some (.findTab src (f 0 1) (f 1 2) (p.drop 3))
      else none
  | .readTab => withLength p 3 (.readTab src (f 0 2) (f 2 1))
  | .bump => withLength p 2 (.bump src (f 0 2))
  | .recall => withLength p 0 (.recall src)
  | .markSoldOut => withLength p 2 (.markSoldOut src (f 0 2))
  | .redrawMe => withLength p 0 (.redrawMe src)
  | .loadItem =>
      withLength p 29 (.loadItem src (f 0 2) (f 2 1) ((p.drop 3).take 16) (f 19 3) (f 22 1) (f 23 1) (f 24 2) (f 26 1) (f 27 2))
  | .setPrice => withLength p 5 (.setPrice src (f 0 2) (f 2 3))
  | .setStock => withLength p 4 (.setStock src (f 0 2) (stockOf (f 2 2)))
  | .loadTax => withLength p 3 (.loadTax src (f 0 1) (f 1 2))
  | .loadStation => withLength p 9 (.loadStation src (f 0 1) (f 1 1) (f 2 1) (f 3 1) (f 4 1) (f 5 2) (f 7 2))
  | .setConfig =>
      withLength p 10 (.setConfig src (f 0 2) #v[(f 2 1, f 3 1), (f 4 1, f 5 1), (f 6 1, f 7 1), (f 8 1, f 9 1)])
  | .setLaneRole => withLength p 2 (.setLaneRole src (f 0 1) (f 1 1))
  | .laneRestart => withLength p 1 (.laneRestart src (f 0 1))
  | .setPeriod => withLength p 1 (.setPeriod src (f 0 1))
  | .endDay => withLength p 0 (.endDay src)
  | .readAlert => withLength p 0 (.readAlert src)
  | .readDrawer => withLength p 1 (.readDrawer src (f 0 1))
  | .closeDrawer => withLength p 1 (.closeDrawer src (f 0 1))
  | .writeOff => withLength p 2 (.writeOff src (f 0 2))
  | .killTicket => withLength p 2 (.killTicket src (f 0 2))
  | .readConfig => withLength p 0 (.readConfig src)

/-- The frame kind and payload of a request (R191 sections 11.2 and 11.3); none for the part's own events. -/
def encodeRequest : Instr → Option (ReqKind × List Byte)
  | .openTab _ kind label => some (.openTab, be 1 kind ++ label)
  | .addLine _ tab rev item qty mods => some (.addLine, be 2 tab ++ be 2 rev ++ be 2 item ++ be 1 qty ++ encodeMods mods)
  | .voidLine _ tab rev index => some (.voidLine, be 2 tab ++ be 2 rev ++ be 1 index)
  | .setLabel _ tab rev label => some (.setLabel, be 2 tab ++ be 2 rev ++ label)
  | .setService _ tab rev rate => some (.setService, be 2 tab ++ be 2 rev ++ be 2 rate)
  | .closeEmpty _ tab rev => some (.closeEmpty, be 2 tab ++ be 2 rev)
  | .mergeTabs _ a ra b rb => some (.mergeTabs, be 2 a ++ be 2 ra ++ be 2 b ++ be 2 rb)
  | .send _ tab hold rush => some (.send, be 2 tab ++ be 1 (hold.toNat + 2 * rush.toNat))
  | .fire _ tab => some (.fire, be 2 tab)
  | .split _ tab rev n entries => some (.split, be 2 tab ++ be 2 rev ++ be 1 n ++ encodeEntries entries)
  | .assign _ tab rev index set => some (.assign, be 2 tab ++ be 2 rev ++ be 1 index ++ be 2 set.toNat)
  | .unsplit _ tab rev => some (.unsplit, be 2 tab ++ be 2 rev)
  | .tenderBegin _ tab share => some (.tenderBegin, be 2 tab ++ be 1 share)
  | .tenderCommit _ tab share kind tendered tip =>
      some (.tenderCommit, be 2 tab ++ be 1 share ++ be 1 kind ++ be 4 tendered ++ be 3 tip)
  | .tenderCancel _ tab share => some (.tenderCancel, be 2 tab ++ be 1 share)
  | .quote _ item => some (.quote, be 2 item)
  | .findTab _ form start key => some (.findTab, be 1 form ++ be 2 start ++ key)
  | .readTab _ tab page => some (.readTab, be 2 tab ++ be 1 page)
  | .bump _ ticket => some (.bump, be 2 ticket)
  | .recall _ => some (.recall, [])
  | .markSoldOut _ item => some (.markSoldOut, be 2 item)
  | .redrawMe _ => some (.redrawMe, [])
  | .loadItem _ item kind name price cls route prep restricted low =>
      some (.loadItem, be 2 item ++ be 1 kind ++ name ++ be 3 price ++ be 1 cls ++ be 1 route ++ be 2 prep ++ be 1 restricted ++ be 2 low)
  | .setPrice _ item price => some (.setPrice, be 2 item ++ be 3 price)
  | .setStock _ item stock => some (.setStock, be 2 item ++ be 2 (stockField stock))
  | .loadTax _ cls rate => some (.loadTax, be 1 cls ++ be 2 rate)
  | .loadStation _ drop depth limit crew fallback prep interval =>
      some (.loadStation, be 1 drop ++ be 1 depth ++ be 1 limit ++ be 1 crew ++ be 1 fallback ++ be 2 prep ++ be 2 interval)
  | .setConfig _ hold settings => some (.setConfig, be 2 hold ++ settings.toList.flatMap (fun x => be 1 x.1 ++ be 1 x.2))
  | .setLaneRole _ lane role => some (.setLaneRole, be 1 lane ++ be 1 role)
  | .laneRestart _ lane => some (.laneRestart, be 1 lane)
  | .setPeriod _ period => some (.setPeriod, be 1 period)
  | .endDay _ => some (.endDay, [])
  | .readAlert _ => some (.readAlert, [])
  | .readDrawer _ drawer => some (.readDrawer, be 1 drawer)
  | .closeDrawer _ drawer => some (.closeDrawer, be 1 drawer)
  | .writeOff _ tab => some (.writeOff, be 2 tab)
  | .killTicket _ ticket => some (.killTicket, be 2 ticket)
  | .readConfig _ => some (.readConfig, [])
  | .resetHold _ | .resetRelease _ _ | .settleEnd | .secondsTick => none
  | .holdExpiry _ _ | .recallWindowExpiry _ | .overdueRise _ => none
  | .poll _ | .answerMiss _ | .goodAnswer _ _ | .chipSelectFall _ | .chipSelectRise _ | .pollEnd _ => none

/-- The number a request is sent on behalf of (R184); none for the part's own events. -/
def sourceOf : Instr → Option Nat
  | .openTab src _ _ | .addLine src _ _ _ _ _ | .voidLine src _ _ _ | .setLabel src _ _ _ => some src
  | .setService src _ _ _ | .closeEmpty src _ _ | .mergeTabs src _ _ _ _ | .send src _ _ _ => some src
  | .fire src _ | .split src _ _ _ _ | .assign src _ _ _ _ | .unsplit src _ _ => some src
  | .tenderBegin src _ _ | .tenderCommit src _ _ _ _ _ | .tenderCancel src _ _ | .quote src _ => some src
  | .findTab src _ _ _ | .readTab src _ _ | .bump src _ | .recall src | .markSoldOut src _ => some src
  | .redrawMe src | .loadItem src _ _ _ _ _ _ _ _ _ | .setPrice src _ _ | .setStock src _ _ => some src
  | .loadTax src _ _ | .loadStation src _ _ _ _ _ _ _ | .setConfig src _ _ | .setLaneRole src _ _ => some src
  | .laneRestart src _ | .setPeriod src _ | .endDay src | .readAlert src | .readDrawer src _ => some src
  | .closeDrawer src _ | .writeOff src _ | .killTicket src _ | .readConfig src => some src
  | .resetHold _ | .resetRelease _ _ | .settleEnd | .secondsTick => none
  | .holdExpiry _ _ | .recallWindowExpiry _ | .overdueRise _ => none
  | .poll _ | .answerMiss _ | .goodAnswer _ _ | .chipSelectFall _ | .chipSelectRise _ | .pollEnd _ => none

end Sys2Proof
end

