-- ==== Sys2Proof/Config.lean ====
section
/-! DEFINITION. Config.lean: the sizes and limits the manual fixes for the part, and the free values: what the
manual leaves unstated (opaque, so that no proof can lean on a value). -/

namespace Sys2Proof.Config

/-- Slots of the tab table (R36). -/
abbrev tabSlots : Nat := 1024
/-- Records of the line pool (R39). -/
abbrev poolRecords : Nat := 8192
/-- An ADD-LINE that leaves fewer free records than this enters POOL-LOW (R42). -/
abbrev poolLowMark : Nat := 256
/-- The most lines one tab can hold (R36, R39). -/
abbrev tabLines : Nat := 64
/-- Slots of the ticket table (R77). -/
abbrev ticketSlots : Nat := 256
/-- The most line references on one ticket (R77, R84). -/
abbrev ticketLines : Nat := 16
/-- Records of the settlement table (R122). -/
abbrev settlementRecords : Nat := 128
/-- Entries of the alert table (R187). -/
abbrev alertSlots : Nat := 32
/-- Places in a till's notice queue (R178). -/
abbrev noticeSlots : Nat := 8
/-- Places in a station's message queue (R106, R179). -/
abbrev messageSlots : Nat := 16
/-- The highest tab number (R36). -/
abbrev maxTabNumber : Nat := 9999
/-- The highest ticket number (R77). -/
abbrev maxTicketNumber : Nat := 65535
/-- The largest goods total of one tab (R48). -/
abbrev maxGoods : Nat := 9999999
/-- The value drawers and the write-off total stop at (R157, R161). -/
abbrev moneyCap : Nat := 999999999
/-- The largest tracked stock count and low mark (R18). -/
abbrev maxStock : Nat := 9999
/-- The largest rate in basis points (R26, R36). -/
abbrev maxRate : Nat := 2500
/-- Seconds of the recall window (R113). -/
abbrev recallWindow : Nat := 60
/-- The concourse clock counts modulo this (R11, R13). -/
abbrev clockModulus : Nat := 4294967296
/-- The revision counts modulo this (R43). -/
abbrev revisionModulus : Nat := 65536
/-- Microseconds chip select must stay high between two transfers (R183). -/
abbrev selectGapMicros : Nat := 10

/-- DESIGN CHOICE (log 3). The byte that stands for a ticket's state in a KILL-TICKET refusal (R97 says the result
carries the state; R191 lists no code for it). Applied to `TicketState.ordinal`. A free value: nothing is known of it. -/
opaque ticketStateCode : Nat → Byte

/-- DESIGN CHOICE (log 4). A free byte, one for each draw; `State.freeDraws` counts the draws. -/
opaque freeByte : Nat → Byte

end Sys2Proof.Config
end

