-- ==== Sys2Proof/Machine/State.lean ====
section
/-! DEFINITION. Machine/State.lean: every piece of state the manual gives the part, as plain data, and `State.reset`, the
part at the end of a cold start (R16). The pins that are outputs (ALERT, the direction pins, the transmitted characters, SDO)
are functions of the state: Machine/Pins.lean. -/

namespace Sys2Proof.Machine

/-- Records by number: each number at most once. -/
abbrev Table (α : Type) := List (Nat × α)

/-- The reset of R14 to R16: held, in the settle, or in operation. -/
inductive Mode where
  | held | settling | operating
  deriving DecidableEq, Repr

/-- The service period (R1). -/
inductive Period where
  | prep | service | lastCall | closeOut | closed
  deriving DecidableEq, Repr

/-! ### The menu table (chapter 2) -/

/-- The kinds of a defined item (R18). UNDEFINED is the absence of the record: it then holds R18's cold start values. -/
inductive ItemKind where
  | plain | modifier
  deriving DecidableEq, Repr

/-- An item record (R18). A stock of none is UNTRACKED. -/
structure Item where
  kind       : ItemKind
  name       : List Byte
  price      : Nat
  cls        : Nat
  route      : Option Nat
  prep       : Nat
  restricted : Bool
  stock      : Option Nat
  lowMark    : Nat
  deriving DecidableEq, Repr

/-! ### The tab store (chapters 3 and 4) -/

inductive TabState where
  | opened | settling | settled
  deriving DecidableEq, Repr

inductive TabKind where
  | running | payFirst
  deriving DecidableEq, Repr

/-- The kitchen stage of a line (R39). -/
inductive Stage where
  | none | unsent | sent | ready
  deriving DecidableEq, Repr

/-- A line record (R39). A share set with no bit standing is absent (R191). -/
structure Line where
  index     : Nat
  item      : Nat
  qty       : Nat
  mods      : List Nat
  unitPrice : Nat
  cls       : Nat
  voided    : Bool
  stage     : Stage
  ticket    : Option Nat
  shares    : BitVec 12
  deriving DecidableEq, Repr

/-- A tab's kept totals (R61); `taxes` holds T0 to T7. -/
structure Totals where
  goods   : Nat
  taxes   : List Nat
  service : Nat
  total   : Nat
  deriving DecidableEq, Repr

/-- The tender kinds of a PAID share (R144). -/
inductive TenderKind where
  | cash | card | voucher | writeOff
  deriving DecidableEq, Repr

/-- A share's payment state with the fields present in it (R144). -/
inductive Pay where
  | unpaid
  | held (till expiry : Nat)
  | paid (kind : TenderKind) (tendered tip change excess till : Nat)
  deriving DecidableEq, Repr

/-- A share record (R123, R144). Share j is entry j - 1 of its settlement record; `taxes` holds its eight class taxes. -/
structure Share where
  goods   : Nat
  taxes   : List Nat
  service : Nat
  total   : Nat
  pay     : Pay
  deriving DecidableEq, Repr

/-- A tab (R36). Its number is its key in the tab table. A label with no characters is absent. The settlement record stands
in the tab it belongs to (R122: one record to a tab, one tab to a record); its n is the number of its shares. -/
structure Tab where
  state       : TabState
  kind        : TabKind
  openingTill : Nat
  label       : List Byte
  serviceRate : Nat
  revision    : Nat
  nextIndex   : Nat
  lines       : List Line
  totals      : Totals
  writtenOff  : Bool
  settlement  : Option (List Share)
  paidFigures : Option (Nat × Nat)
  deriving DecidableEq, Repr

/-- A read view that names a tab and a revision (R70). -/
structure View where
  tab : Nat
  rev : Nat
  deriving DecidableEq, Repr

/-! ### The settlement unit (chapters 7 and 8) -/

/-- A filled hold record: the tab and share the till holds (R146). -/
structure HoldRef where
  tab   : Nat
  share : Nat
  deriving DecidableEq, Repr

/-- A drawer (R156). -/
structure Drawer where
  cashCount     : Nat
  cardCount     : Nat
  voucherCount  : Nat
  cashAmount    : Nat
  cardAmount    : Nat
  voucherAmount : Nat
  excess        : Nat
  tips          : Nat
  change        : Nat
  sharesPaid    : Nat
  saturated     : Bool
  deriving DecidableEq, Repr

/-! ### The kitchen router (chapters 5 and 6) -/

inductive TicketState where
  | held | waiting | live | bumped | killed
  deriving DecidableEq, Repr

/-- A ticket's reference to a line. One whose line's record is freed keeps only its mark, with index 0 (R59, R77). -/
structure LineRef where
  index  : Nat
  voided : Bool
  deriving DecidableEq, Repr

/-- A ticket (R77). Its number is its key in the ticket table. `fireSeq` is the model's own: it records the order in which
the router fired tickets of one fired time (R89). -/
structure Ticket where
  station    : Nat
  original   : Option Nat
  tab        : Nat
  refs       : List LineRef
  state      : TicketState
  rush       : Bool
  fired      : Option Nat
  fireSeq    : Nat
  firstShown : Option Nat
  front      : Bool
  target     : Nat
  age        : Nat
  level      : Nat
  deriving DecidableEq, Repr

/-- A last-bumped reference: the ticket, and the clock value whose tick ends its recall window (R113, R12). -/
structure LastBumped where
  ticket : Nat
  expiry : Nat
  deriving DecidableEq, Repr

/-- A station record (R102) with its LIVE queue and WAITING list, front first (R92). -/
structure Station where
  depth       : Nat
  limit       : Nat
  crew        : Nat
  fallback    : Option Nat
  defaultPrep : Nat
  interval    : Nat
  p16         : Nat
  lastBumped  : Option LastBumped
  live        : List Nat
  waiting     : List Nat
  deriving DecidableEq, Repr

/-- A level rise that the last tick made due: the ticket, and the age the tick gave it. The model's own (log 5). -/
structure DueRise where
  ticket : Nat
  age    : Nat
  deriving DecidableEq, Repr

/-! ### Results, notices and station messages (chapters 6, 9 and 11) -/

/-- The result codes (00_scope.md, R191). -/
inductive Code where
  | ok | stale | full | limit | period | soldOut | restricted | noTab | noLine | noItem | noShare | badState | badSet
  | badValue | lapsed | amount | noRecall | role | noPage | badFrame | busy | heldElsewhere | notShown
  deriving DecidableEq, Repr

/-- One field of a result's content: its width in bytes and its value (R191). -/
structure Field where
  width : Nat
  value : Nat
  deriving DecidableEq, Repr

/-- What an owning block answers: a code, the mark bits 5 to 7 as a number 0 to 7, and the content (R191 section 11.2). -/
structure Reply where
  code  : Code
  marks : Nat
  body  : List Field
  deriving DecidableEq, Repr

/-- A result: a reply with the kind byte of the request it answers (R177). -/
structure Result where
  kind  : Nat
  reply : Reply
  deriving DecidableEq, Repr

/-- The notices of R178. -/
inductive Notice where
  | period (p : Period) (clock : Nat)
  | soldOut (item : Nat) (name : List Byte)
  | ready (tab ticket station : Nat)
  | recalled (tab ticket station : Nat)
  | holdLapsed (tab share : Nat)
  deriving DecidableEq, Repr

/-- A line reference as a SHOW carries it (R94, R59). -/
structure ShowRef where
  index  : Nat
  item   : Nat
  qty    : Nat
  mods   : List Nat
  voided : Bool
  deriving DecidableEq, Repr

/-- The content of a SHOW, from the ticket and its tab as they stood when it was queued (R94). -/
structure ShowBody where
  ticket      : Nat
  tab         : Nat
  label       : List Byte
  openingTill : Nat
  original    : Option Nat
  rush        : Bool
  refs        : List ShowRef
  deriving DecidableEq, Repr

/-- The station messages of R106. -/
inductive Msg where
  | show (body : ShowBody)
  | update (ticket position : Nat)
  | clear (ticket : Nat)
  | level (ticket lvl : Nat)
  | redraw
  deriving DecidableEq, Repr

/-! ### The lanes (chapter 9) -/

inductive Role where
  | till | kitchen
  deriving DecidableEq, Repr

inductive Rate where
  | r57600 | r115200 | r230400 | r460800
  deriving DecidableEq, Repr

/-- The item a poll carries (R173). -/
inductive PollItem where
  | result (r : Result)
  | notice (n : Notice)
  | message (m : Msg)
  | empty
  deriving DecidableEq, Repr

/-- Where a lane unit stands: ready to begin its next poll, sending one, or in the answer window of one. The window, in ms, is
the one in force when the poll began (R169, R181). -/
inductive LanePhase where
  | ready
  | sending (item : PollItem) (window : Nat)
  | awaiting (window : Nat)
  deriving DecidableEq, Repr

/-- A lane unit's lane-wide state (R166). -/
structure Lane where
  role      : Role
  rate      : Rate
  window    : Nat
  passCount : Nat
  position  : Nat
  phase     : LanePhase
  deriving DecidableEq, Repr

/-- A lane unit's state for one drop (R166). -/
structure Drop where
  present  : Bool
  misses   : Nat
  slot     : Option Result
  notices  : List Notice
  messages : List Msg
  deriving DecidableEq, Repr

/-! ### The controller link and the alert table (chapter 10) -/

/-- What the answer slot holds when it holds a frame (R182). -/
inductive LinkAnswer where
  | empty
  | result (r : Result)
  deriving DecidableEq, Repr

/-- The transfer on the controller link: chip select high; a transfer shifting out the frame taken from the slot at its fall;
or a transfer that is ignored whole (R15, R182, R183). -/
inductive Transfer where
  | none
  | active (out : Option LinkAnswer)
  | ignored
  deriving DecidableEq, Repr

inductive AlertKind where
  | lowStock | soldOut | routeLost | overdue | dropAbsent | sendDeferred | drawerSaturated | poolLow
  deriving DecidableEq, Repr

/-- An entry of the alert table (R187); POOL-LOW has subject 0. -/
structure Alert where
  kind    : AlertKind
  subject : Nat
  clock   : Nat
  deriving DecidableEq, Repr

/-- The part's whole state. -/
structure State where
  /-- R14 to R16: reset held, settle, operation. -/
  mode           : Mode
  /-- R14: the RESET pin is low. -/
  resetPinLow    : Bool
  /-- R14: the supply monitor reports the supply not good. -/
  supplyNotGood  : Bool
  /-- R14, R168: the CFG strap as sampled at the last release of the reset. -/
  cfgHigh        : Bool
  /-- R1. -/
  period         : Period
  /-- R11: the concourse clock. -/
  clock          : Nat
  /-- R18: the defined item records by item number, numbers rising. -/
  items          : Table Item
  /-- R26: the eight tax rates. -/
  taxRates       : Vector Nat 8
  /-- R36: the tabs present by tab number, numbers rising. -/
  tabs           : Table Tab
  /-- R37. -/
  tabCounter     : Nat
  /-- R70: the read views, 0 to 32. -/
  views          : Vector (Option View) 33
  /-- R145: the hold time H. -/
  holdTime       : Nat
  /-- R146: the hold records of tills 0 to 32. -/
  holds          : Vector (Option HoldRef) 33
  /-- R156: the drawers 0 to 32. -/
  drawers        : Vector Drawer 33
  /-- R161: the concourse write-off total. -/
  writeOffTotal  : Nat
  /-- R77: the tickets by number, in creation order. -/
  tickets        : Table Ticket
  /-- R78. -/
  ticketCounter  : Nat
  /-- The model's own: how many tickets the router has fired (the tie of R89). -/
  fireCount      : Nat
  /-- The model's own: the level rises of the last tick that are still to be taken, in R117's order (log 5). -/
  risesDue       : List DueRise
  /-- R102: the station records of drops 1 to 32. -/
  stations       : Vector Station 32
  /-- R166: the lane units A to D. -/
  lanes          : Vector Lane 4
  /-- R166: the per-drop state of drops 1 to 32. -/
  drops          : Vector Drop 32
  /-- R182: the transfer on the controller link. -/
  transfer       : Transfer
  /-- R182: the answer slot. -/
  answerSlot     : Option LinkAnswer
  /-- R187: the alert table, oldest first. -/
  alerts         : List Alert
  /-- R187: the FULL marker. -/
  alertsFull     : Bool
  /-- The model's own: how many free values have been drawn (log 4). -/
  freeDraws      : Nat
  /-- The model's own: the commands that wait, first in, first out. -/
  pending        : List Instr
  deriving DecidableEq, Repr

/-- No command of the part stops it with a fault: every event has an effect, a result or no effect (log 2). -/
inductive Fault where
  deriving DecidableEq, Repr

/-- Why a command has no meaning. -/
inductive Refusal where
  /-- Raised by an arm of `exec` whose command has no meaning yet. Safe: nothing happens. No arm raises it. -/
  | notModelled (mnemonic : String)
  deriving DecidableEq, Repr

/-- The outcome of a command. -/
abbrev Outcome := Host.Outcome State Fault Refusal

/-- A station record after cold start (R102, R92). -/
def Station.cold : Station where
  depth := 4
  limit := 12
  crew := 1
  fallback := none
  defaultPrep := 300
  interval := 120
  p16 := 4800
  lastBumped := none
  live := []
  waiting := []

/-- A drop after cold start and after a lane restart (R166). -/
def Drop.cold : Drop where
  present := false
  misses := 3
  slot := none
  notices := []
  messages := []

/-- A drawer with every field 0 and its flag clear (R156). -/
def Drawer.zero : Drawer where
  cashCount := 0
  cardCount := 0
  voucherCount := 0
  cashAmount := 0
  cardAmount := 0
  voucherAmount := 0
  excess := 0
  tips := 0
  change := 0
  sharesPaid := 0
  saturated := false

/-- A lane after cold start in the role given (R166). -/
def Lane.cold (role : Role) : Lane where
  role := role
  rate := .r115200
  window := 8
  passCount := 0
  position := 1
  phase := .ready

/-- The default roles of lanes A to D (R168). -/
def coldLanes (cfgHigh : Bool) : Vector Lane 4 :=
  #v[.cold .till, .cold .till, .cold (if cfgHigh then .till else .kitchen), .cold .kitchen]

/-- The part at the end of the settle with its cold start values (R16), the CFG strap as sampled. -/
def State.cold (cfgHigh : Bool) : State where
  mode := .operating
  resetPinLow := false
  supplyNotGood := false
  cfgHigh := cfgHigh
  period := .prep
  clock := 0
  items := []
  taxRates := .replicate 8 0
  tabs := []
  tabCounter := 1
  views := .replicate 33 none
  holdTime := 90
  holds := .replicate 33 none
  drawers := .replicate 33 .zero
  writeOffTotal := 0
  tickets := []
  ticketCounter := 1
  fireCount := 0
  risesDue := []
  stations := .replicate 32 .cold
  lanes := coldLanes cfgHigh
  drops := .replicate 32 .cold
  transfer := .none
  answerSlot := some .empty
  alerts := []
  alertsFull := false
  freeDraws := 0
  pending := []

/-- The part right after reset: a cold start with the CFG strap high (log 1, DESIGN CHOICE: the strap is the board's). -/
def State.reset : State := State.cold true

end Sys2Proof.Machine
end

