-- ==== Sys2Proof/Machine/Flags.lean ====
section
/-! DEFINITION. Machine/Flags.lean: the code values of R191 section 11.2, the fields of a result's content, and the mark
bits of a result byte (READ-TAB's view flag and LAST, VOID-LINE's restore flag, NEW and RE-ARMED, MORE, FULL). -/

namespace Sys2Proof.Machine

/-- The value of a result code (R191). -/
def Code.value : Code → Nat
  | .ok => 0x00 | .stale => 0x01 | .full => 0x02 | .limit => 0x03 | .period => 0x04 | .soldOut => 0x05
  | .restricted => 0x06 | .noTab => 0x07 | .noLine => 0x08 | .noItem => 0x09 | .noShare => 0x0A | .badState => 0x0B
  | .badSet => 0x0C | .badValue => 0x0D | .lapsed => 0x0E | .amount => 0x0F | .noRecall => 0x10 | .role => 0x11
  | .noPage => 0x12 | .badFrame => 0x13 | .busy => 0x14 | .heldElsewhere => 0x15 | .notShown => 0x16

def Period.code : Period → Nat
  | .prep => 0 | .service => 1 | .lastCall => 2 | .closeOut => 3 | .closed => 4

def TabState.code : TabState → Nat
  | .opened => 0 | .settling => 1 | .settled => 2

def TabKind.code : TabKind → Nat
  | .running => 0 | .payFirst => 1

def Stage.code : Stage → Nat
  | .none => 0 | .unsent => 1 | .sent => 2 | .ready => 3

def Pay.code : Pay → Nat
  | .unpaid => 0 | .held _ _ => 1 | .paid _ _ _ _ _ _ => 2

def TenderKind.code : TenderKind → Nat
  | .cash => 0 | .card => 1 | .voucher => 2 | .writeOff => 3

def Role.code : Role → Nat
  | .till => 0 | .kitchen => 1

def Rate.code : Rate → Nat
  | .r57600 => 0 | .r115200 => 1 | .r230400 => 2 | .r460800 => 3

/-- The bit rate in bits per second (R166). -/
def Rate.bps : Rate → Nat
  | .r57600 => 57600 | .r115200 => 115200 | .r230400 => 230400 | .r460800 => 460800

def AlertKind.code : AlertKind → Nat
  | .lowStock => 0 | .soldOut => 1 | .routeLost => 2 | .overdue => 3
  | .dropAbsent => 4 | .sendDeferred => 5 | .drawerSaturated => 6 | .poolLow => 7

/-- The argument of `Config.ticketStateCode`; the manual lists no code for a ticket's state (log 3). -/
def TicketState.ordinal : TicketState → Nat
  | .held => 0 | .waiting => 1 | .live => 2 | .bumped => 3 | .killed => 4

/-- READ-TAB's view flag (R73, R191). -/
inductive ViewFlag where
  | held | renewed | unheld
  deriving DecidableEq, Repr

def ViewFlag.code : ViewFlag → Nat
  | .held => 0 | .renewed => 1 | .unheld => 2

/-! ### Content fields -/

def u8 (v : Nat) : Field := ⟨1, v⟩
def u16 (v : Nat) : Field := ⟨2, v⟩
def u24 (v : Nat) : Field := ⟨3, v⟩
def u32 (v : Nat) : Field := ⟨4, v⟩

/-- A stock field: FFFFh for UNTRACKED (R191). -/
def stockData : Option Nat → Field
  | none => u16 65535
  | some c => u16 c

/-- A name or label in 16 bytes, filled after its last character with 00h (R191). -/
def text16 (cs : List Byte) : List Field := (List.range 16).map fun i => u8 ((cs[i]?.getD 0).toNat)

/-! ### Replies and mark bits -/

/-- An answer of OK with its content and no mark. -/
def okWith (body : List Field) : Reply := ⟨.ok, 0, body⟩

/-- A refusal with what its rule says it carries. -/
def refuse (c : Code) (body : List Field) : Reply := ⟨c, 0, body⟩

/-- The marks of a READ-TAB page: bits 5 and 6 the view flag, bit 7 LAST (R191). -/
def pageMarks (flag : ViewFlag) (last : Bool) : Nat := flag.code + 4 * last.toNat

/-- Bit 5: VOID-LINE's restore flag; RE-ARMED of TENDER-BEGIN (R191). -/
def lowMark (b : Bool) : Nat := b.toNat

/-- Bit 7: MORE of FIND-TAB; the FULL marker of READ-ALERT (R191). -/
def highMark (b : Bool) : Nat := 4 * b.toNat

/-- The result byte: bits 0 to 4 the code, bits 5 to 7 the marks (R191). -/
def Reply.byte (r : Reply) : Nat := r.code.value + 32 * r.marks

end Sys2Proof.Machine
end

