-- ==== Sys2Proof/Machine/Operands.lean ====
section
/-! DEFINITION. Machine/Operands.lean: the forms a request's fields take: clamping, printable text, the codes that name a
period, a role or a kind, drop numbers, and share sets. -/

namespace Sys2Proof.Machine

/-- The value brought to the nearest end of its range (00_scope.md, Clamping and refusal). -/
def clamp (lo hi v : Nat) : Nat := if v < lo then lo else if hi < v then hi else v

/-- A printable ASCII character: 20h to 7Eh (00_scope.md, Names). -/
def isPrintable (b : Byte) : Bool := decide (0x20 ≤ b.toNat) && decide (b.toNat ≤ 0x7E)

/-- Every character is printable. -/
def printable (cs : List Byte) : Bool := cs.all isPrintable

/-- A drop number (R167). -/
def isDrop (n : Nat) : Bool := decide (1 ≤ n) && decide (n ≤ 32)

/-- An item number (R18). -/
def isItemNumber (n : Nat) : Bool := decide (1 ≤ n) && decide (n ≤ 511)

/-- A route or fallback field: 0 for none (R191). -/
def dropField (n : Nat) : Option Nat := if n = 0 then none else some n

/-- The field of a drop that may be absent: 0 for none (R191). -/
def dropCode : Option Nat → Nat
  | none => 0
  | some d => d

/-- The lane of a drop, A 0 to D 3 (R167). -/
def laneOf (drop : Nat) : Fin 4 := Fin.ofNat 4 ((drop - 1) / 8)

/-- A drop's address on its lane, 1 to 8 (R167). -/
def addressOf (drop : Nat) : Nat := (drop - 1) % 8 + 1

/-- The drop at an address of a lane (R167). -/
def dropAt (lane : Fin 4) (address : Nat) : Nat := 8 * lane.val + address

/-- The drops of a lane. -/
def laneDrops (lane : Fin 4) : List Nat := (List.range 8).map fun i => dropAt lane (i + 1)

/-- Every drop, in ascending order. -/
def allDrops : List Nat := List.range' 1 32

def periodOf : Nat → Option Period
  | 0 => some .prep | 1 => some .service | 2 => some .lastCall | 3 => some .closeOut | 4 => some .closed | _ => none

def tabKindOf : Nat → Option TabKind
  | 0 => some .running | 1 => some .payFirst | _ => none

def roleOfCode : Nat → Option Role
  | 0 => some .till | 1 => some .kitchen | _ => none

def rateOf : Nat → Option Rate
  | 0 => some .r57600 | 1 => some .r115200 | 2 => some .r230400 | 3 => some .r460800 | _ => none

/-- A lane field: A 0 to D 3 (R191). -/
def laneOfCode (n : Nat) : Option (Fin 4) := if h : n < 4 then some ⟨n, h⟩ else none

/-- The tender kinds a request may give (R150). -/
def tenderKindOf : Nat → Option TenderKind
  | 0 => some .cash | 1 => some .card | 2 => some .voucher | _ => none

/-! ### Share sets (R124, R191): bit j - 1 stands for share j -/

/-- Share j is in the set. -/
def inSet (set : BitVec 12) (j : Nat) : Bool := set.getLsbD (j - 1)

/-- The set of all shares 1 to n. -/
def allShares (n : Nat) : BitVec 12 := BitVec.ofNat 12 (2 ^ n - 1)

/-- Non-empty, and every share it names is from 1 to n (R127, R131). -/
def goodSet (n : Nat) (set : BitVec 12) : Bool := decide (0 < set.toNat) && decide (set.toNat < 2 ^ n)

/-- The first occurrence of each entry, in order. -/
def distinct : List Nat → List Nat
  | [] => []
  | x :: xs => x :: (distinct xs).filter (fun y => y != x)

end Sys2Proof.Machine
end

