-- ==== Sys2Proof/Machine/Ops.lean ====
section
/-! DEFINITION. Machine/Ops.lean: the named operations every block uses: tables, the accessors of State, the role check and
the period gate, placing a result, alerts, notices, stock, and a tab's kept totals. -/

namespace Sys2Proof.Machine

/-! ### Tables -/

/-- The record with a number. -/
def Table.find {α : Type} : Table α → Nat → Option α
  | [], _ => none
  | (k, v) :: rest, n => if k = n then some v else Table.find rest n

/-- Stores a record at its number, keeping the numbers rising. -/
def Table.put {α : Type} : Table α → Nat → α → Table α
  | [], n, x => [(n, x)]
  | (k, v) :: rest, n, x =>
      if n < k then (n, x) :: (k, v) :: rest
      else if n = k then (n, x) :: rest
      else (k, v) :: Table.put rest n x

/-- Removes the record with a number. -/
def Table.erase {α : Type} (m : Table α) (n : Nat) : Table α := m.filter fun e => e.1 != n

/-- Changes the record with a number where it stands. -/
def Table.edit {α : Type} (m : Table α) (n : Nat) (f : α → α) : Table α :=
  m.map fun e => if e.1 = n then (e.1, f e.2) else e

/-! ### Accessors -/

/-- The place of a drop in the per-drop and station tables. -/
def dropIx (d : Nat) : Fin 32 := Fin.ofNat 32 (d - 1)

/-- The place of a till, view or drawer number in a table of 33. -/
def tillIx (d : Nat) : Fin 33 := Fin.ofNat 33 d

def State.drop (s : State) (d : Nat) : Drop := if isDrop d then s.drops[dropIx d] else .cold

/-- Stores a drop's state; a number that is no drop stores nothing. -/
def State.setDrop (s : State) (d : Nat) (x : Drop) : State :=
  { s with drops := if isDrop d then s.drops.set (dropIx d).val x (dropIx d).isLt else s.drops }

def State.station (s : State) (d : Nat) : Station := if isDrop d then s.stations[dropIx d] else .cold

/-- Stores a station record; a number that is no drop stores nothing. -/
def State.setStation (s : State) (d : Nat) (x : Station) : State :=
  { s with stations := if isDrop d then s.stations.set (dropIx d).val x (dropIx d).isLt else s.stations }

def State.lane (s : State) (l : Fin 4) : Lane := s.lanes[l]

def State.setLane (s : State) (l : Fin 4) (x : Lane) : State := { s with lanes := s.lanes.set l.val x l.isLt }

def State.view (s : State) (n : Nat) : Option View := s.views[tillIx n]

def State.setView (s : State) (n : Nat) (v : Option View) : State :=
  { s with views := s.views.set (tillIx n).val v (tillIx n).isLt }

def State.hold (s : State) (n : Nat) : Option HoldRef := s.holds[tillIx n]

def State.setHold (s : State) (n : Nat) (h : Option HoldRef) : State :=
  { s with holds := s.holds.set (tillIx n).val h (tillIx n).isLt }

def State.drawer (s : State) (n : Nat) : Drawer := s.drawers[tillIx n]

def State.setDrawer (s : State) (n : Nat) (d : Drawer) : State :=
  { s with drawers := s.drawers.set (tillIx n).val d (tillIx n).isLt }

/-- The rate of a tax class (R26). -/
def State.taxRate (s : State) (c : Nat) : Nat := s.taxRates[Fin.ofNat 8 c]

def State.setTaxRate (s : State) (c r : Nat) : State :=
  { s with taxRates := s.taxRates.set (Fin.ofNat 8 c).val r (Fin.ofNat 8 c).isLt }

/-- A defined item: a number outside 1 to 511 and an UNDEFINED item are simply not there (R35). -/
def State.item (s : State) (n : Nat) : Option Item := if isItemNumber n then s.items.find n else none

def State.setItem (s : State) (n : Nat) (x : Item) : State := { s with items := s.items.put n x }

/-- The tab a request names (R44's first check): a number 1 to 9,999 that a tab has. -/
def State.tab (s : State) (n : Nat) : Option Tab :=
  if 1 ≤ n ∧ n ≤ Config.maxTabNumber then s.tabs.find n else none

def State.setTab (s : State) (n : Nat) (t : Tab) : State := { s with tabs := s.tabs.put n t }

/-- Changes a present tab where it stands. -/
def State.editTab (s : State) (n : Nat) (f : Tab → Tab) : State := { s with tabs := s.tabs.edit n f }

def State.ticket (s : State) (n : Nat) : Option Ticket := s.tickets.find n

/-- Changes a ticket where it stands. -/
def State.editTicket (s : State) (n : Nat) (f : Ticket → Ticket) : State := { s with tickets := s.tickets.edit n f }

/-- The role of a drop's lane (R167). -/
def State.roleOf (s : State) (d : Nat) : Role := (s.lane (laneOf d)).role

/-- The number is a till: a drop on a TILL lane (R167). -/
def State.isTill (s : State) (d : Nat) : Bool := isDrop d && decide (s.roleOf d = .till)

/-- The number is a station: a drop on a KITCHEN lane (R167). -/
def State.isStation (s : State) (d : Nat) : Bool := isDrop d && decide (s.roleOf d = .kitchen)

/-- Line records in use: the sum over present tabs of their lines (R39). -/
def State.linesInUse (s : State) : Nat := (s.tabs.map fun e => e.2.lines.length).sum

/-- Free line records (R42). -/
def State.freeLines (s : State) : Nat := Config.poolRecords - s.linesInUse

/-- Free settlement records (R122). -/
def State.freeSettlements (s : State) : Nat :=
  Config.settlementRecords - (s.tabs.filter fun e => e.2.settlement.isSome).length

/-- Free ticket slots (R77). -/
def State.freeTickets (s : State) : Nat := Config.ticketSlots - s.tickets.length

/-- Draws a free value (log 4). -/
def State.drawFree (s : State) : State × Byte := ({ s with freeDraws := s.freeDraws + 1 }, Config.freeByte s.freeDraws)

/-- Seconds ticks from an earlier clock record to a later one (R13). -/
def ticksBetween (earlier later : Nat) : Nat := (later + Config.clockModulus - earlier) % Config.clockModulus

/-- A clock value some ticks ahead, counted modulo 4,294,967,296 (R13, R147). -/
def clockAfter (clock secs : Nat) : Nat := (clock + secs) % Config.clockModulus

/-- The next revision; from 65,535 it goes to 0 (R43). -/
def nextRevision (r : Nat) : Nat := (r + 1) % Config.revisionModulus

/-- The first number from `n` upward, wrapping from `top` to 1, that is not in use (R37, R78). As many numbers are tried as
are in use: when all of those are used, the next one is free. -/
def firstFree (used : List Nat) (top : Nat) : Nat → Nat → Nat
  | 0, n => n
  | fuel + 1, n => if used.contains n then firstFree used top fuel (if n = top then 1 else n + 1) else n

/-! ### Who may send what, and when -/

/-- Who a request comes from: a till, a station or the concourse controller. -/
inductive Sender where
  | till | station | controller
  deriving DecidableEq, Repr

/-- The sender a source number stands for, by the role of its lane now (R175, R184); none for no such source. -/
def State.sender (s : State) (src : Nat) : Option Sender :=
  if src = 0 then some .controller
  else if s.isTill src then some .till
  else if s.isStation src then some .station
  else none

/-- The role check (R180; R184 for the controller link). -/
def roleAllows (k : ReqKind) (who : Sender) : Bool :=
  match k with
  | .openTab | .addLine | .voidLine | .setLabel | .setService | .closeEmpty | .mergeTabs
  | .send | .fire | .split | .assign | .unsplit | .tenderBegin | .tenderCommit | .tenderCancel | .quote =>
      who == .till || who == .controller
  | .findTab | .readTab => true
  | .bump | .recall | .markSoldOut | .redrawMe => who == .station
  | .loadItem | .setPrice | .setStock | .loadTax | .loadStation | .setConfig | .setLaneRole | .laneRestart
  | .setPeriod | .endDay | .readAlert | .readDrawer | .closeDrawer | .writeOff | .killTicket | .readConfig =>
      who == .controller

/-- The period gate (R7). -/
def gateOpen (k : ReqKind) (p : Period) : Bool :=
  match k with
  | .openTab => p == .service || p == .lastCall
  | .addLine | .mergeTabs => p == .prep || p == .service || p == .lastCall
  | .voidLine | .setLabel | .setService | .closeEmpty | .send | .fire | .killTicket
  | .split | .assign | .unsplit | .tenderBegin | .tenderCommit | .tenderCancel
  | .findTab | .readTab | .quote | .bump | .recall => p != .closed
  | .writeOff => p == .service || p == .lastCall || p == .closeOut
  | .loadItem | .loadTax | .setLaneRole => p == .prep
  | .setPrice | .setStock | .loadStation | .setConfig | .markSoldOut | .redrawMe
  | .readAlert | .readDrawer | .closeDrawer | .readConfig | .laneRestart | .setPeriod => true
  | .endDay => p == .closed

/-- Places a result: in the answer slot for the concourse controller (R183), in a drop's pending-result slot (R177). -/
def State.place (s : State) (src : Nat) (r : Result) : State :=
  if src = 0 then { s with answerSlot := some (.result r) }
  else s.setDrop src { s.drop src with slot := some r }

/-- The role check, the period gate, then the owning block (R6). A sender that does not exist is allowed nothing. -/
def judge (k : ReqKind) (src : Nat) (owner : State → State × Reply) (s : State) : State × Reply :=
  match s.sender src with
  | none => (s, refuse .role [])
  | some who =>
      if roleAllows k who = false then (s, refuse .role [])
      else if gateOpen k s.period = false then (s, refuse .period [])
      else owner s

/-- A request taken: judged, and its one result placed (R175, R183). Outside operation no request is taken (R14, R15). -/
def request (k : ReqKind) (src : Nat) (owner : State → State × Reply) (s : State) : Outcome :=
  if s.mode = .operating then
    let done := judge k src owner s
    .next (done.1.place src ⟨k.code, done.2⟩)
  else .next s

/-! ### Alerts and notices -/

/-- Hands the alert table an entry (R187). -/
def State.enterAlert (s : State) (kind : AlertKind) (subject : Nat) : State :=
  if s.alerts.any (fun a => a.kind == kind && a.subject == subject) then s
  else if s.alerts.length < Config.alertSlots then { s with alerts := s.alerts ++ [⟨kind, subject, s.clock⟩] }
  else { s with alertsFull := true }

/-- A notice queue with a notice placed at its back; a full queue loses its oldest (R178). -/
def queueNotice (q : List Notice) (n : Notice) : List Notice :=
  if q.length < Config.noticeSlots then q ++ [n] else q.drop (q.length + 1 - Config.noticeSlots) ++ [n]

/-- Places a notice for a till, PRESENT or ABSENT. A number that is no till has no notice queue (R166, R184). -/
def State.notify (s : State) (d : Nat) (n : Notice) : State :=
  if s.isTill d then s.setDrop d { s.drop d with notices := queueNotice (s.drop d).notices n } else s

/-- Places a notice for every PRESENT till (R4, R33). -/
def State.notifyPresent (s : State) (n : Notice) : State :=
  (allDrops.filter fun d => s.isTill d && (s.drop d).present).foldl (fun st d => st.notify d n) s

/-! ### Stock (R28 to R30) -/

/-- The places an item takes on a line: the line's item and its modifier entries (R28). -/
def placesOf (item : Nat) (mods : List Nat) (x : Nat) : Nat := (item :: mods).count x

/-- The first item in line order whose tracked count is smaller than its demand (R28). -/
def State.shortItem (s : State) (item : Nat) (mods : List Nat) (q : Nat) : Option Nat :=
  (distinct (item :: mods)).find? fun x =>
    match (s.item x).bind Item.stock with
    | none => false
    | some c => decide (c < q * placesOf item mods x)

/-- Lowers an item's tracked count by its demand (R28). -/
def State.takeStock (s : State) (x amount : Nat) : State :=
  match s.item x with
  | none => s
  | some i => s.setItem x { i with stock := i.stock.map (· - amount) }

/-- The alerts and the notice of one item a reserve lowered (R29, R33). -/
def State.stockAlerts (s : State) (x : Nat) : State :=
  match s.item x with
  | none => s
  | some i =>
    match i.stock with
    | none => s
    | some c =>
      let s1 := if c ≤ i.lowMark then s.enterAlert .lowStock x else s
      if c = 0 then (s1.enterAlert .soldOut x).notifyPresent (.soldOut x i.name) else s1

/-- A reserve that succeeds: every count lowered, then each item lowered looked at in line order (R28, R29). -/
def State.reserve (s : State) (item : Nat) (mods : List Nat) (q : Nat) : State :=
  let xs := distinct (item :: mods)
  let lowered := xs.foldl (fun st x => st.takeStock x (q * placesOf item mods x)) s
  xs.foldl State.stockAlerts lowered

/-- Adds units back to a tracked item, clamped to 9,999 (R30). -/
def State.giveStock (s : State) (x amount : Nat) : State :=
  match s.item x with
  | none => s
  | some i => s.setItem x { i with stock := i.stock.map fun c => min Config.maxStock (c + amount) }

/-- The restore of one line's units (R30). -/
def State.restore (s : State) (l : Line) : State :=
  (distinct (l.item :: l.mods)).foldl (fun st x => st.giveStock x (l.qty * placesOf l.item l.mods x)) s

/-! ### A tab's lines and kept totals (R61) -/

/-- A line's goods amount (R39). -/
def Line.goods (l : Line) : Nat := l.qty * l.unitPrice

/-- The ACTIVE lines, in index order. -/
def activeLines (ls : List Line) : List Line := ls.filter fun l => !l.voided

/-- G: the goods of the lines given. -/
def goodsOf (ls : List Line) : Nat := (ls.map Line.goods).sum

/-- Bc: the goods of the lines of one class. -/
def classGoods (ls : List Line) (c : Nat) : Nat := goodsOf (ls.filter fun l => l.cls = c)

/-- A base times a rate in basis points, rounded half-up (R61, R137). -/
def roundRate (base rate : Nat) : Nat := (base * rate + 5000) / 10000

/-- The kept totals of lines under the rates and a service charge (R61). -/
def totalsOf (rate : Nat → Nat) (service : Nat) (ls : List Line) : Totals :=
  let act := activeLines ls
  let g := goodsOf act
  let taxes := (List.range 8).map fun c => roundRate (classGoods act c) (rate c)
  let sv := roundRate g service
  { goods := g, taxes := taxes, service := sv, total := g + taxes.sum + sv }

/-- The tab with its kept totals recomputed (R61). -/
def State.withTotals (s : State) (t : Tab) : Tab := { t with totals := totalsOf s.taxRate t.serviceRate t.lines }

/-- The tab with its next revision (R43). -/
def Tab.edited (t : Tab) : Tab := { t with revision := nextRevision t.revision }

/-- The line with an index. -/
def Tab.line (t : Tab) (ix : Nat) : Option Line := t.lines.find? fun l => l.index == ix

/-- The ACTIVE line with an index (R51, R127). -/
def Tab.activeLine (t : Tab) (ix : Nat) : Option Line := t.lines.find? fun l => l.index == ix && !l.voided

/-- The tab with its lines at the indices chosen changed. -/
def Tab.editLines (t : Tab) (pick : Nat → Bool) (f : Line → Line) : Tab :=
  { t with lines := t.lines.map fun l => if pick l.index then f l else l }

/-- How many shares of a settlement record satisfy a test. -/
def countShares (shares : List Share) (p : Pay → Bool) : Nat := (shares.filter fun x => p x.pay).length

def Pay.isHeld : Pay → Bool
  | .held _ _ => true
  | _ => false

def Pay.isPaid : Pay → Bool
  | .paid _ _ _ _ _ _ => true
  | _ => false

/-- The number of shares n of a tab's settlement record; 0 without one (R67). -/
def Tab.shareCount (t : Tab) : Nat := (t.settlement.getD []).length

/-- Share j of a tab's settlement record (R123). -/
def Tab.share (t : Tab) (j : Nat) : Option Share := if j = 0 then none else (t.settlement.getD [])[j - 1]?

/-- The tab with share j changed. -/
def Tab.setShare (t : Tab) (j : Nat) (x : Share) : Tab := { t with settlement := t.settlement.map fun l => l.set (j - 1) x }

/-- The three common checks of an edit (R44), the state's gate given by the request: a refusal, or the tab. -/
def State.editChecks (s : State) (tab rev : Nat) (gate : Tab → Option Reply) : Except Reply Tab :=
  match s.tab tab with
  | none => .error (refuse .noTab [])
  | some t =>
    match gate t with
    | some r => .error r
    | none => if t.revision = rev then .ok t else .error (refuse .stale [u16 t.revision])

/-- The gate of the requests an OPEN tab alone takes (R38). -/
def onlyOpen (t : Tab) : Option Reply :=
  if t.state = .opened then none else some (refuse .badState [u8 t.state.code])

end Sys2Proof.Machine
end

