-- ==== Sys2Proof/Machine/Finding.lean ====
section
/-! DEFINITION. Machine/Finding.lean: FIND-TAB and READ-TAB (chapter 4), with the page layouts of R191 section 11.4. -/

namespace Sys2Proof.Machine

/-! ### FIND-TAB -/

/-- A tab matches a search: its label begins with the key, or its opening till equals it (R64). -/
def Tab.matches (t : Tab) (form : Nat) (key : List Byte) : Bool :=
  if form = 0 then !t.label.isEmpty && key.isPrefixOf t.label else t.openingTill == unbe key

/-- The form, then the key (R63). -/
def keyOk (form : Nat) (key : List Byte) : Bool :=
  match form with
  | 0 => decide (1 ≤ key.length) && decide (key.length ≤ 16) && printable key
  | 1 => decide (unbe key ≤ 32)
  | _ => false

/-- The matching tabs above a number, in ascending order (R64: the table stands in number order). -/
def State.searchTabs (s : State) (form start : Nat) (key : List Byte) : Table Tab :=
  s.tabs.filter fun e => decide (start < e.1) && e.2.matches form key

/-- FIND-TAB at the tab store (R63, R64). -/
def findTab (form start : Nat) (key : List Byte) (s : State) : State × Reply :=
  if keyOk form key = false ∨ Config.maxTabNumber < start then (s, refuse .badValue [])
  else
    let found := s.searchTabs form start key
    (s, ⟨.ok, highMark (decide (8 < found.length)), (found.take 8).flatMap fun e => [u16 e.1, u8 e.2.state.code]⟩)

def execFindTab (src form startAfter : Nat) (key : List Byte) (s : State) : Outcome :=
  request .findTab src (findTab form startAfter key) s

/-! ### The pages of a tab -/

/-- The page exists for the tab (R66). -/
def Tab.hasPage (t : Tab) (p : Nat) : Bool :=
  decide (p = 0) ||
  (decide (1 ≤ p) && decide (p ≤ 16) && t.lines.any fun l => l.index == 4 * p - 3) ||
  (decide (17 ≤ p) && decide (p ≤ 19) && t.settlement.isSome && decide (4 * (p - 17) + 1 ≤ t.shareCount))

/-- The highest page that exists for the tab (R66). -/
def Tab.lastPage (t : Tab) : Nat := ((List.range 20).filter t.hasPage).foldl max 0

/-- Page 0 after the revision (R67, R191). -/
def Tab.header (t : Tab) (n : Nat) : List Field :=
  [u16 n, u8 (t.state.code + 4 * t.kind.code + 8 * t.writtenOff.toNat + 16 * t.shareCount), u8 t.lines.length,
    u16 t.serviceRate] ++ text16 t.label ++
  [u24 t.totals.goods] ++ t.totals.taxes.map u24 ++ [u24 t.totals.service, u24 t.totals.total] ++
  [u24 ((t.paidFigures.map Prod.fst).getD 0), u24 ((t.paidFigures.map Prod.snd).getD 0)]

/-- Modifiers 1 to 4 in nine bits each, 0 for no entry (R191). -/
def packMods (mods : List Nat) : Nat :=
  mods.getD 0 0 + 2 ^ 9 * mods.getD 1 0 + 2 ^ 18 * mods.getD 2 0 + 2 ^ 27 * mods.getD 3 0

/-- A line entry of 14 bytes (R68, R191). -/
def Line.entry (l : Line) : List Field :=
  [u8 (l.index + 128 * l.voided.toNat), u16 (l.item + 512 * l.qty),
    u24 (l.unitPrice + 2 ^ 19 * l.cls + 2 ^ 22 * l.stage.code), u16 (l.ticket.getD 0),
    ⟨6, packMods l.mods + 2 ^ 36 * l.shares.toNat⟩]

/-- The tender kind of a share entry: 0 unless PAID (R191). -/
def Pay.kindCode : Pay → Nat
  | .paid k _ _ _ _ _ => k.code
  | _ => 0

/-- The till of a share entry: the holding till when HELD, the paying till when PAID, 0 otherwise (R191). -/
def Pay.till : Pay → Nat
  | .unpaid => 0
  | .held t _ => t
  | .paid _ _ _ _ _ t => t

/-- A share entry of 14 bytes (R69, R191). -/
def Share.entry (j : Nat) (x : Share) : List Field :=
  [u8 (j + 16 * x.pay.code + 64 * x.pay.kindCode), u24 x.goods, u24 x.taxes.sum, u24 x.service, u24 x.total, u8 x.pay.till]

/-- The content of a page after the revision (R66 to R69). -/
def Tab.page (t : Tab) (n p : Nat) : List Field :=
  if p = 0 then t.header n
  else if p ≤ 16 then
    (t.lines.filter fun l => decide (4 * p - 3 ≤ l.index) && decide (l.index ≤ 4 * p)).flatMap Line.entry
  else
    (((t.settlement.getD []).mapIdx fun i x => Share.entry (i + 1) x).drop (4 * (p - 17))).take 4 |>.flatten

/-- The flag of a page and the requester's view once it is taken or followed (R72, R73). -/
def followView (view : Option View) (tab rev p : Nat) : ViewFlag × Option View :=
  if p = 0 then (.held, some ⟨tab, rev⟩)
  else match view with
  | some v =>
    if v.tab = tab then (if v.rev = rev then (.held, view) else (.renewed, some ⟨tab, rev⟩))
    else (.unheld, view)
  | none => (.unheld, none)

/-- READ-TAB at the tab store (R71 to R74). -/
def readTab (src tab page : Nat) (s : State) : State × Reply :=
  match s.tab tab with
  | none => (if page = 0 then s.setView src none else s, refuse .noTab [])
  | some t =>
    if t.hasPage page = false then (s, refuse .noPage [u16 t.revision, u8 t.lines.length, u8 t.shareCount])
    else
      let seen := followView (s.view src) tab t.revision page
      let last := decide (page = t.lastPage)
      let after := if last && seen.1 != .unheld then none else seen.2
      (s.setView src after, ⟨.ok, pageMarks seen.1 last, u16 t.revision :: t.page tab page⟩)

def execReadTab (src tab page : Nat) (s : State) : Outcome := request .readTab src (readTab src tab page) s

end Sys2Proof.Machine
end

