-- ==== Sys2Proof/Machine/Frames.lean ====
section
/-! DEFINITION. Machine/Frames.lean: what the part sends: the payloads of results, notices and station messages, a SHOW in its
parts, the frames of a poll as the lane's characters, and the answer frame of the controller link (R171, R191, R193). -/

namespace Sys2Proof.Machine

/-- The bytes of fields in order, high byte first (R191). -/
def fieldBytes (fs : List Field) : List Byte := fs.flatMap fun f => be f.width f.value

/-- A result's payload: the result byte, then the content (R191). -/
def Result.payload (r : Result) : List Byte := be 1 r.reply.byte ++ fieldBytes r.reply.body

/-- The kind code of a notice (R191). -/
def Notice.kind : Notice → Nat
  | .period _ _ => 0x40 | .soldOut _ _ => 0x41 | .ready _ _ _ => 0x42 | .recalled _ _ _ => 0x43 | .holdLapsed _ _ => 0x44

/-- A notice's payload (R191). -/
def Notice.payload : Notice → List Byte
  | .period p clock => fieldBytes [u8 p.code, u32 clock]
  | .soldOut item name => fieldBytes (u16 item :: text16 name)
  | .ready tab ticket station => fieldBytes [u16 tab, u16 ticket, u8 station]
  | .recalled tab ticket station => fieldBytes [u16 tab, u16 ticket, u8 station]
  | .holdLapsed tab share => fieldBytes [u16 tab, u8 share]

/-- A line reference of a SHOW body, 8 bytes (R191). -/
def ShowRef.fields (r : ShowRef) : List Field :=
  [u8 (r.index + 128 * r.voided.toNat), u16 (r.item + 512 * r.qty), ⟨5, packMods r.mods⟩]

/-- A SHOW's body: a head of 23 bytes and 8 for each line reference (R191). The bit that R191 leaves unnamed in the byte of
the original station and rush, bit 6, is 0: DESIGN CHOICE (log 23). -/
def ShowBody.bytes (b : ShowBody) : List Byte :=
  fieldBytes ([u16 b.ticket, u16 b.tab] ++ text16 b.label ++
    [u8 b.openingTill, u8 (dropCode b.original + 128 * b.rush.toNat), u8 b.refs.length] ++ b.refs.flatMap ShowRef.fields)

/-- The body cut into parts of at most 63 bytes; `fuel` bounds the parts (R193: one to three). -/
def cutParts : Nat → List Byte → List (List Byte)
  | 0, _ => []
  | fuel + 1, bs => if bs.length ≤ 63 then [bs] else bs.take 63 :: cutParts fuel (bs.drop 63)

/-- The payloads of a SHOW's frames: the part byte, then the part (R193). -/
def ShowBody.payloads (b : ShowBody) : List (List Byte) :=
  let parts := cutParts b.bytes.length b.bytes
  parts.mapIdx fun i part => be 1 (i + 1 + 16 * parts.length) ++ part

/-- The kind code and the payloads, one for each frame, of a station message (R191, R193). -/
def Msg.frames : Msg → Nat × List (List Byte)
  | .show b => (0x50, b.payloads)
  | .update ticket position => (0x51, [fieldBytes [u16 ticket, u8 position]])
  | .clear ticket => (0x52, [fieldBytes [u16 ticket]])
  | .level ticket lvl => (0x53, [fieldBytes [u16 ticket, u8 lvl]])
  | .redraw => (0x54, [[]])

/-- A character the part sends on a lane: its data and its mark bit (R171). -/
structure SentChar where
  data : Byte
  mark : Bool
  deriving DecidableEq, Repr

/-- The levels of a character on the line, one for each bit time: the start bit low, the data bits with the least significant
first, the mark bit, and the stop bit high (R171, R191 section 11.1). -/
def SentChar.levels (c : SentChar) : List Bool :=
  false :: ((List.range 8).map c.data.getLsbD ++ [c.mark, true])

/-- The characters of a frame on a lane: the first, the address, with its mark bit set, every other with it clear (R171). -/
def sentFrame : List Byte → List SentChar
  | [] => []
  | address :: rest => ⟨address, true⟩ :: rest.map fun b => ⟨b, false⟩

/-- The frames of a poll of an address, in bytes (R173, R193). -/
def PollItem.frames (address : Nat) : PollItem → List (List Byte)
  | .empty => [frameBytes address 0 []]
  | .result r => [frameBytes address r.kind r.payload]
  | .notice n => [frameBytes address n.kind n.payload]
  | .message m => m.frames.2.map (frameBytes address m.frames.1)

/-- The bits of a byte on the controller link, most significant first; there is no mark bit there (R182, R191 section 11.1). -/
def linkBits (b : Byte) : List Bool := (List.range 8).map b.getMsbD

/-- The frame the controller link shifts out for an answer (R182, R183). -/
def LinkAnswer.bytes : LinkAnswer → List Byte
  | .empty => frameBytes 0 0 []
  | .result r => frameBytes 0 r.kind r.payload

end Sys2Proof.Machine
end

