-- ==== Sys2Proof/Machine/Router.lean ====
section
/-! DEFINITION. Machine/Router.lean: the operations of the kitchen router that several commands share: station messages and
redraws (R106, R107), screens (R94), list order, firing and admission (R89, R92, R93), kills (R96), routes and quotes (R82,
R118), sending a tab (R81 to R86), and retirement (R163, R164). -/

namespace Sys2Proof.Machine

/-! ### Screens and station messages -/

/-- A station's screen: the first d tickets of its LIVE queue (R94). -/
def State.screen (s : State) (d : Nat) : List Nat := (s.station d).live.take (s.station d).depth

/-- A line reference as a SHOW carries it; one whose record is freed carries zeros and its mark (R59, R94). -/
def showRef (t : Tab) (r : LineRef) : ShowRef :=
  match t.line r.index with
  | some l => ⟨r.index, l.item, l.qty, l.mods, r.voided⟩
  | none => ⟨0, 0, 0, [], r.voided⟩

/-- The SHOW of a ticket from it and its tab as they stand (R94). -/
def State.showOf (s : State) (n : Nat) (k : Ticket) : Msg :=
  match s.tabs.find k.tab with
  | some t => .show ⟨n, k.tab, t.label, t.openingTill, k.original, k.rush, k.refs.map (showRef t)⟩
  | none => .show ⟨n, k.tab, [], 0, k.original, k.rush, k.refs.map fun r => ⟨0, 0, 0, [], r.voided⟩⟩

/-- The SHOW of a ticket and, when its level is above 0, its LEVEL straight after (R106). -/
def State.showMsgs (s : State) (n : Nat) : List Msg :=
  match s.ticket n with
  | none => []
  | some k => s.showOf n k :: if k.level = 0 then [] else [.level n k.level]

/-- What a redraw queues: a REDRAW, then the SHOW and LEVEL of each ticket on the screen. Only the last LEVEL of a screen of
eight late tickets can find no room (R107). -/
def State.redrawMsgs (s : State) (d : Nat) : List Msg :=
  (Msg.redraw :: (s.screen d).flatMap s.showMsgs).take Config.messageSlots

/-- Replaces a station's queue with a redraw (R107). -/
def State.redraw (s : State) (d : Nat) : State := s.setDrop d { s.drop d with messages := s.redrawMsgs d }

/-- Queues an event's messages for a station; if they do not all fit, the queue is replaced with a redraw instead (R107). A
number that is no station has no message queue (R166). -/
def State.post (s : State) (d : Nat) (msgs : List Msg) : State :=
  if s.isStation d = false ∨ msgs = [] then s
  else if (s.drop d).messages.length + msgs.length ≤ Config.messageSlots then
    s.setDrop d { s.drop d with messages := (s.drop d).messages ++ msgs }
  else s.redraw d

/-- A ticket that comes onto the screen takes its first-on-screen time if it has none (R94). -/
def State.markShown (s : State) (n : Nat) : State :=
  s.editTicket n fun k => { k with firstShown := some (k.firstShown.getD s.clock) }

/-- The screen comparison of R94: a CLEAR for each ticket that left (but the one bumped), then a SHOW for each that came. -/
def State.syncScreen (s : State) (d : Nat) (before : List Nat) (bumped : Option Nat) : State :=
  let after := s.screen d
  let left := before.filter fun n => !after.contains n && bumped != some n
  let came := after.filter fun n => !before.contains n
  let s1 := came.foldl State.markShown s
  s1.post d (left.map Msg.clear ++ came.flatMap s1.showMsgs)

/-! ### List order, admission, firing -/

/-- Fire order: the ticket fired more ticks before the clock stands earlier, then the one fired first (R89). -/
def firedBefore (clock : Nat) (a b : Ticket) : Bool :=
  let da := ticksBetween (a.fired.getD clock) clock
  let db := ticksBetween (b.fired.getD clock) clock
  decide (db < da) || (da == db && decide (a.fireSeq < b.fireSeq))

/-- Ticket `b` of a list stands ahead of `a`, which is about to take its ordered place (R92). -/
def standsAhead (clock : Nat) (b a : Ticket) : Bool :=
  b.front || (b.rush && !a.rush) || (b.rush == a.rush && firedBefore clock b a)

/-- A list with a ticket at its ordered place (R92). -/
def State.ordered (s : State) (list : List Nat) (n : Nat) (a : Ticket) : List Nat :=
  let ahead := fun m => match s.ticket m with
    | some b => standsAhead s.clock b a
    | none => false
  list.takeWhile ahead ++ n :: list.dropWhile ahead

/-- Takes a ticket out of its station's lists; its front placement is cleared (R92). -/
def State.takeOut (s : State) (n d : Nat) : State :=
  let st := s.station d
  (s.setStation d { st with live := st.live.filter (· != n), waiting := st.waiting.filter (· != n) }).editTicket n
    fun k => { k with front := false }

/-- Admits the ticket at the front of WAITING to its ordered place in LIVE (R93). -/
def State.admitOne (s : State) (d : Nat) : State :=
  match (s.station d).waiting with
  | [] => s
  | n :: rest =>
    let s1 := (s.setStation d { s.station d with waiting := rest }).editTicket n
      fun k => { k with front := false, state := .live }
    match s1.ticket n with
    | none => s1
    | some k => s1.setStation d { s1.station d with live := s1.ordered (s1.station d).live n k }

/-- Admission, at most `fuel` tickets of it. -/
def State.admitMany (d : Nat) : Nat → State → State
  | 0, s => s
  | fuel + 1, s =>
      if (s.station d).live.length < (s.station d).limit then State.admitMany d fuel (s.admitOne d) else s

/-- Admission: while LIVE holds fewer tickets than the load limit and WAITING is not empty (R93). -/
def State.fillLive (s : State) (d : Nat) : State := State.admitMany d (s.station d).waiting.length s

/-- A ticket fired at a clock value, the model's own count with it (R89). -/
def Ticket.firedAt (k : Ticket) (clock seq : Nat) : Ticket := { k with fired := some clock, fireSeq := seq, state := .waiting }

/-- Fires a ticket: its fired time, its place in WAITING, then admission (R89). -/
def State.fireOne (s : State) (n : Nat) : State :=
  match s.ticket n with
  | none => s
  | some k =>
    let s1 := { s.editTicket n fun k => k.firedAt s.clock s.fireCount with fireCount := s.fireCount + 1 }
    let st := s1.station k.station
    let waiting := s1.ordered st.waiting n (k.firedAt s.clock s.fireCount)
    (s1.setStation k.station { st with waiting := waiting }).fillLive k.station

/-- The stations of the tickets given, each once. -/
def State.stationsOf (s : State) (ns : List Nat) : List Nat :=
  distinct (ns.filterMap fun n => (s.ticket n).map Ticket.station)

/-- Fires tickets in the order given, then compares the screen of each station concerned (R89, R94). -/
def State.fireAll (s : State) (ns : List Nat) : State :=
  (s.stationsOf ns).foldl (fun st d => st.syncScreen d (s.screen d) none) (ns.foldl State.fireOne s)

/-! ### Last-bumped references and kills -/

/-- Clears every last-bumped reference that names a ticket chosen (R96, R101). -/
def State.clearRefs (s : State) (pick : Nat → Bool) : State :=
  { s with stations := s.stations.map fun st =>
      match st.lastBumped with
      | some b => if pick b.ticket then { st with lastBumped := none } else st
      | none => st }

/-- A kill (R96), but for the retirement check that ends it: the events that kill run that check once their own rule has
dealt with the lines (R97, R99). -/
def State.killTicket (s : State) (n : Nat) : State :=
  match s.ticket n with
  | none => s
  | some k =>
    let before := s.screen k.station
    let s1 := (s.takeOut n k.station).editTicket n fun k => { k with state := .killed }
    let s2 := if k.state = .live then s1.fillLive k.station else s1
    (s2.clearRefs (· == n)).syncScreen k.station before none

/-- The lines a ticket names without a voided mark (R97, R109). -/
def Ticket.names (k : Ticket) (ix : Nat) : Bool := k.refs.any fun r => r.index == ix && !r.voided

/-- How many line references have no voided mark. -/
def Ticket.unmarked (k : Ticket) : Nat := (k.refs.filter fun r => !r.voided).length

/-- The lines a ticket names without a voided mark, on its tab. -/
def State.ticketLines (s : State) (k : Ticket) : List Line :=
  match s.tabs.find k.tab with
  | none => []
  | some t => t.lines.filter fun l => k.names l.index

/-- Restores the units of the lines a ticket names without a voided mark (R97, R99). -/
def State.restoreTicket (s : State) (k : Ticket) : State := (s.ticketLines k).foldl State.restore s

/-! ### Retirement -/

/-- Removes a tab and what belongs to it: its lines, its tickets and the references to them, its views, its slot (R57, R164). -/
def State.removeTab (s : State) (n : Nat) : State :=
  let gone := (s.tickets.filter fun e => e.2.tab == n).map (·.1)
  let s1 := s.clearRefs gone.contains
  { s1 with
    tabs := s1.tabs.erase n
    tickets := s1.tickets.filter fun e => e.2.tab != n
    views := s1.views.map fun v => match v with
      | some w => if w.tab = n then none else some w
      | none => none }

/-- Some ticket of the tab is HELD, WAITING or LIVE (R163). -/
def State.ticketsWork (s : State) (n : Nat) : Bool :=
  s.tickets.any fun e => e.2.tab == n && (e.2.state == .held || e.2.state == .waiting || e.2.state == .live)

/-- Some station's last-bumped reference names a ticket of the tab (R163). -/
def State.tabReferenced (s : State) (n : Nat) : Bool :=
  s.stations.toList.any fun st =>
    match st.lastBumped with
    | some b => (s.ticket b.ticket).any fun k => k.tab == n
    | none => false

/-- The tab has an ACTIVE line in stage UNSENT (R163). -/
def Tab.hasUnsent (t : Tab) : Bool := t.lines.any fun l => !l.voided && l.stage == .unsent

/-- The conditions of R163. -/
def State.mayRetire (s : State) (n : Nat) (t : Tab) : Bool :=
  t.state == .settled && !s.ticketsWork n && !s.tabReferenced n && (t.writtenOff || !t.hasUnsent)

/-- The retirement check (R163, R164). -/
def State.retireCheck (s : State) (n : Nat) : State :=
  match s.tabs.find n with
  | none => s
  | some t => if s.mayRetire n t then s.removeTab n else s

/-! ### Routes and quotes -/

/-- Where a line goes (R82). -/
inductive Dest where
  | lost
  | to (station : Nat) (original : Option Nat)
  deriving DecidableEq, Repr

/-- The drop is a PRESENT station. -/
def State.usable (s : State) (d : Nat) : Bool := s.isStation d && (s.drop d).present

/-- Route resolution (R82). An UNSENT line always has a route, so no reachable line meets the first arm (log 16). -/
def State.resolve (s : State) (route : Option Nat) : Dest :=
  match route with
  | none => .lost
  | some d =>
    if s.isStation d = false then .lost
    else if (s.drop d).present then .to d none
    else match (s.station d).fallback with
      | some f => if s.usable f then .to f (some d) else .to d none
      | none => .to d none

/-- A station's quote (R118). -/
def State.quoteOf (s : State) (d : Nat) : Nat :=
  let st := s.station d
  let q := st.live.length + st.waiting.length
  min 5999 (((q / st.crew + 1) * st.p16 + 15) / 16)

/-- The largest quote of the stations given; 0 for none (R86, R88). -/
def State.largestQuote (s : State) (ds : List Nat) : Nat := (ds.map s.quoteOf).foldl max 0

/-! ### Sending a tab -/

/-- A gathered line and where it goes. -/
structure Routed where
  line : Line
  dest : Dest
  deriving DecidableEq, Repr

/-- The lines of one ticket to be made (R84). -/
structure Run where
  station  : Nat
  original : Option Nat
  lines    : List Line
  deriving DecidableEq, Repr

/-- The ACTIVE UNSENT lines, in index order (R81), each with its destination (R82). -/
def State.gather (s : State) (t : Tab) : List Routed :=
  (t.lines.filter fun l => !l.voided && l.stage == .unsent).map fun l => ⟨l, s.resolve ((s.item l.item).bind Item.route)⟩

/-- The lines of a group: one station and one original station, or its absence (R84). -/
def groupOf (rs : List Routed) (dest : Dest) : List Line := (rs.filter fun r => r.dest == dest).map Routed.line

/-- The tickets to be made, in the order of their first lines: each group cut into runs of sixteen (R84). `before` holds the
lines already passed: a line starts a ticket when a whole number of runs of its group stands before it. -/
def runsFrom (all : List Routed) : List Routed → List Routed → List Run
  | _, [] => []
  | before, r :: rest =>
      let tail := runsFrom all (before ++ [r]) rest
      match r.dest with
      | .lost => tail
      | .to d o =>
        let p := (groupOf before r.dest).length
        if p % Config.ticketLines = 0 then ⟨d, o, ((groupOf all r.dest).drop p).take Config.ticketLines⟩ :: tail else tail

/-- The largest prep target among the items of lines (R84). -/
def State.targetOf (s : State) (ls : List Line) : Nat :=
  (ls.map fun l => ((s.item l.item).map Item.prep).getD 0).foldl max 0

/-- Makes one ticket and moves its lines to SENT (R78, R86). -/
def State.makeTicket (tab : Nat) (rush : Bool) (s : State) (r : Run) : State :=
  let used := s.tickets.map (·.1)
  let n := firstFree used Config.maxTicketNumber used.length s.ticketCounter
  let k : Ticket :=
    { station := r.station, original := r.original, tab := tab, refs := r.lines.map fun l => ⟨l.index, false⟩,
      state := .held, rush := rush, fired := none, fireSeq := 0, firstShown := none, front := false,
      target := s.targetOf r.lines, age := 0, level := 0 }
  { s with
    tickets := s.tickets ++ [(n, k)]
    ticketCounter := if n = Config.maxTicketNumber then 1 else n + 1
    tabs := s.tabs.edit tab fun t =>
      t.editLines ((r.lines.map Line.index).contains) fun l => { l with stage := .sent, ticket := some n } }

/-- Moves a route-lost line to NONE and enters its alert (R83). -/
def State.loseRoute (tab : Nat) (s : State) (l : Line) : State :=
  (s.editTab tab fun t => t.editLines (· == l.index) fun l => { l with stage := .none }).enterAlert .routeLost l.item

/-- What a send comes to: refused for want of ticket slots (R85), or carried out. -/
inductive Sent where
  | full (needed free : Nat)
  | done (s : State) (made : List Nat) (lost : Nat)

/-- The send of a tab from the gathering on (R81 to R86). -/
def State.sendTab (s : State) (n : Nat) (t : Tab) (hold rush : Bool) : Sent :=
  let rs := s.gather t
  let runs := runsFrom rs [] rs
  let lost := groupOf rs .lost
  if s.freeTickets < runs.length then .full runs.length s.freeTickets
  else
    let s1 := lost.foldl (State.loseRoute n) s
    let s2 := runs.foldl (State.makeTicket n rush) s1
    let made := (s2.tickets.drop s.tickets.length).map (·.1)
    .done (if hold then s2 else s2.fireAll made) made lost.length

/-- The quote a send answers: the largest among the stations that received a ticket (R86). -/
def State.sentQuote (s : State) (made : List Nat) : Nat := s.largestQuote (s.stationsOf made)

end Sys2Proof.Machine
end

