-- ==== Sys2Proof/Machine/Lanes.lean ====
section
/-! DEFINITION. Machine/Lanes.lean: the lane units (chapter 9): passes, POLL and POLL-END, what makes an answer good, misses
and presence, and lane restart. -/

namespace Sys2Proof.Machine

/-! ### Passes and polls -/

/-- The next pass count and address after an address is done (R172). -/
def nextAddress (pass pos : Nat) : Nat × Nat := if 8 ≤ pos then ((pass + 1) % 16, 1) else (pass, pos + 1)

/-- The pass count and address of the next drop to poll, from the address given: every drop in a pass of count 0, a PRESENT
one otherwise (R172). Sixteen passes and the rest of one always reach a pass of count 0. -/
def State.seek (s : State) (l : Fin 4) : Nat → Nat → Nat → Nat × Nat
  | 0, pass, pos => (pass, pos)
  | fuel + 1, pass, pos =>
      if pass = 0 ∨ (s.drop (dropAt l pos)).present then (pass, pos)
      else s.seek l fuel (nextAddress pass pos).1 (nextAddress pass pos).2

/-- The item a poll of a drop carries (R173). -/
def Drop.pollItem (x : Drop) (role : Role) : PollItem :=
  match x.slot with
  | some r => .result r
  | none =>
    match role with
    | .till => match x.notices with | n :: _ => .notice n | [] => .empty
    | .kitchen => match x.messages with | m :: _ => .message m | [] => .empty

/-- The drop once the item of its poll is removed (R173). -/
def Drop.afterPoll (x : Drop) (role : Role) : Drop :=
  match x.slot with
  | some _ => { x with slot := none }
  | none =>
    match role with
    | .till => { x with notices := x.notices.tail }
    | .kitchen => { x with messages := x.messages.tail }

/-- The beginning of a poll on a lane that is ready for one (R172, R173). -/
def State.beginPoll (s : State) (l : Fin 4) : State :=
  let ln := s.lane l
  let next := s.seek l 136 ln.passCount ln.position
  let d := dropAt l next.2
  let x := s.drop d
  (s.setDrop d (x.afterPoll ln.role)).setLane l
    { ln with passCount := next.1, position := next.2, phase := .sending (x.pollItem ln.role) ln.window }

/-- POLL: the lane unit begins its next poll, if it is ready for one (R172, R173). -/
def execPoll (l : Fin 4) (s : State) : Outcome :=
  if s.mode = .operating ∧ (s.lane l).phase = .ready then .next (s.beginPoll l) else .next s

/-- POLL-END: the lane turns to receive and the answer window begins (R171, R174). -/
def execPollEnd (l : Fin 4) (s : State) : Outcome :=
  match s.mode, (s.lane l).phase with
  | .operating, .sending _ w => .next (s.setLane l { s.lane l with phase := .awaiting w })
  | _, _ => .next s

/-! ### Answers -/

/-- The drop a lane has polled. -/
def State.polled (s : State) (l : Fin 4) : Nat := dropAt l (s.lane l).position

/-- The poll is done: the position moves on and the lane is ready for its next poll (R172). -/
def State.pollDone (s : State) (l : Fin 4) : State :=
  let ln := s.lane l
  let next := nextAddress ln.passCount ln.position
  s.setLane l { ln with passCount := next.1, position := next.2, phase := .ready }

/-- The first character starts within the window, is a mark character, carries address 0 and stops high (R174). -/
def opensAnswer (c : LaneChar) (window : Nat) : Bool :=
  decide (c.delayNs ≤ window * 1000000) && c.mark && decide (c.data = 0#8) && c.stopHigh

/-- A later character starts within two character times, has no mark and stops high (R174; a character is 11 bit times). -/
def followsAnswer (c : LaneChar) (bps : Nat) : Bool :=
  decide (c.delayNs * bps ≤ 22 * 1000000000) && !c.mark && c.stopHigh

/-- The check received at the end of a frame equals the one worked over the bytes before it (R174). -/
def checkOk (frame : List Byte) : Bool :=
  let n := frame.length - 2
  frame.drop n == be 2 (check (frame.take n)).toNat

/-- The kind and payload of a good answer; none for a miss (R174). Characters after the frame are ignored (R171). -/
def readAnswer (window bps : Nat) (cs : List LaneChar) : Option (Nat × List Byte) :=
  match cs with
  | a :: k :: n :: _ =>
    let len := n.data.toNat
    let frame := cs.take (len + 5)
    if opensAnswer a window && decide (len ≤ 64) && decide (len + 5 ≤ cs.length) && frame.tail.all (followsAnswer · bps) &&
        checkOk (frame.map LaneChar.data) then
      some (k.data.toNat, ((frame.map LaneChar.data).drop 3).take len)
    else none
  | _ => none

/-- A miss of the drop polled (R176). -/
def State.miss (s : State) (l : Fin 4) : State :=
  let d := s.polled l
  let x := s.drop d
  let s1 := s.setDrop d { x with misses := min 3 (x.misses + 1), present := x.present && decide (x.misses + 1 < 3) }
  let s2 := if x.present && decide (3 ≤ x.misses + 1) then s1.enterAlert .dropAbsent d else s1
  s2.pollDone l

/-- The lane unit's part of a good answer: the miss count, the presence, a returning station's redraw (R175, R121). -/
def State.heard (s : State) (l : Fin 4) : State :=
  let d := s.polled l
  let x := s.drop d
  let s1 := s.setDrop d { x with misses := 0, present := true }
  let s2 := if !x.present && s.isStation d then s1.redraw d else s1
  s2.pollDone l

/-- ANSWER-MISS: a poll whose answer is not good (R174, R176). -/
def execAnswerMiss (l : Fin 4) (s : State) : Outcome :=
  match s.mode, (s.lane l).phase with
  | .operating, .awaiting _ => .next (s.miss l)
  | _, _ => .next s

/-! ### Lane restart (R170) -/

/-- Every drop of a lane as a restart leaves it. -/
def State.clearDrops (s : State) (l : Fin 4) : State := (laneDrops l).foldl (fun st d => st.setDrop d .cold) s

/-- The read views of a lane's drops released (R75). -/
def State.clearViews (s : State) (l : Fin 4) : State := (laneDrops l).foldl (fun st d => st.setView d none) s

/-- A lane restart (R170). -/
def State.restartLane (s : State) (l : Fin 4) : State :=
  let s1 := (s.clearDrops l).clearViews l
  s1.setLane l { s1.lane l with passCount := 0, position := 1, phase := .ready }

end Sys2Proof.Machine
end

