-- ==== Sys2Proof/Machine/Pins.lean ====
section
/-! DEFINITION. Machine/Pins.lean: the outputs of section 10.4's pin table that the state drives: ALERT, the lane direction pins, the
frames a lane is sending and the levels they put on the line, and the bytes and bits the controller link shifts out. -/

namespace Sys2Proof.Machine

/-- The ALERT line: high while the alert table holds an entry, in operation (R189, R14). -/
def State.alertPin (s : State) : Bool := decide (s.mode = .operating) && !s.alerts.isEmpty

/-- A lane's direction pin: high to transmit, for the whole of a poll (R171, R14). -/
def State.dirPin (s : State) (l : Fin 4) : Bool :=
  match s.mode, (s.lane l).phase with
  | .operating, .sending _ _ => true
  | _, _ => false

/-- The frames a lane is sending, as characters; none when its transmitter idles (R171, R173, R193). -/
def State.laneFrames (s : State) (l : Fin 4) : List (List SentChar) :=
  match s.mode, (s.lane l).phase with
  | .operating, .sending item _ => (item.frames (s.lane l).position).map sentFrame
  | _, _ => []

/-- The levels a lane's transmit pin gives while it sends a poll, one for each bit time, its frames back to back (R171, R193);
none while the transmitter idles at the stop level (R14, section 10.4). -/
def State.laneLevels (s : State) (l : Fin 4) : List Bool := (s.laneFrames l).flatten.flatMap SentChar.levels

/-- A shift of n bytes out of a frame: the frame cut off, or followed by all ones (R182). -/
def shiftOut (frame : List Byte) (n : Nat) : List Byte := (frame ++ List.replicate n 0xFF#8).take n

/-- The first n bytes SDO shifts out in the transfer under way; none while chip select is high (R182, R183, R15). -/
def State.linkOut (s : State) (n : Nat) : List Byte :=
  match s.transfer with
  | .none => []
  | .ignored => shiftOut [] n
  | .active none => shiftOut [] n
  | .active (some a) => shiftOut a.bytes n

/-- The bits of those bytes on SDO (R182). -/
def State.linkOutBits (s : State) (n : Nat) : List Bool := (s.linkOut n).flatMap linkBits

end Sys2Proof.Machine
end

