-- ==== Sys2Proof/Machine/Power.lean ====
section
/-! DEFINITION. Machine/Power.lean: the internal reset, its release and the end of the settle (R14 to R17). -/

namespace Sys2Proof.Machine

/-- A transfer cut by the reset is completed with all ones and its request is not taken (R17). -/
def Transfer.cut : Transfer → Transfer
  | .none => .none
  | .active _ => .ignored
  | .ignored => .ignored

/-- The records of a cold start under what the reset leaves alone: the reset's own conditions, the strap sample, a transfer
being clocked, and the sender's queue (R14 to R17). -/
def State.coldKeeping (s : State) (mode : Mode) : State :=
  { State.cold s.cfgHigh with
    mode := mode
    resetPinLow := s.resetPinLow
    supplyNotGood := s.supplyNotGood
    transfer := s.transfer.cut
    pending := s.pending }

/-- RESET-HOLD: the RESET pin goes low, or the supply is reported not good (R14, R17). -/
def execResetHold (cause : ResetCause) (s : State) : Outcome :=
  match cause with
  | .pinLow => .next { s.coldKeeping .held with resetPinLow := true }
  | .supplyNotGood => .next { s.coldKeeping .held with supplyNotGood := true }

/-- One of the conditions that hold the reset clears (R14). -/
def State.clearCause (s : State) (cause : ResetCause) : State :=
  match cause with
  | .pinLow => { s with resetPinLow := false }
  | .supplyNotGood => { s with supplyNotGood := false }

/-- RESET-RELEASE: a condition clears; when neither holds the reset, it is released, the CFG strap is sampled and the settle
begins (R14, R15, R168). -/
def execResetRelease (cause : ResetCause) (cfgHigh : Bool) (s : State) : Outcome :=
  if s.mode = .held then
    let s1 := s.clearCause cause
    if s1.resetPinLow || s1.supplyNotGood then .next s1 else .next { s1 with mode := .settling, cfgHigh := cfgHigh }
  else .next s

/-- SETTLE-END: the part enters operation with its cold start values (R16). -/
def execSettleEnd (s : State) : Outcome :=
  if s.mode = .settling then .next (s.coldKeeping .operating) else .next s

end Sys2Proof.Machine
end

