-- ==== Sys2Proof/Machine/Control.lean ====
section
/-! DEFINITION. Machine/Control.lean: the concourse controller's requests about the part itself: SET-PERIOD and END-DAY
(chapter 1), SET-LANE-ROLE and LANE-RESTART (chapter 9), SET-CONFIG, READ-CONFIG and READ-ALERT (chapter 10). -/

namespace Sys2Proof.Machine

/-! ### The period -/

/-- The moves SET-PERIOD may make (R2); CLOSE-OUT to CLOSED also waits for an empty tab table (R3). -/
def periodMove (a b : Period) : Bool :=
  match a, b with
  | .prep, .service | .service, .lastCall | .service, .closeOut | .lastCall, .service | .lastCall, .closeOut
  | .closeOut, .closed => true
  | _, _ => false

/-- A change of period with its PERIOD notices (R4). -/
def State.changePeriod (s : State) (p : Period) : State := { s with period := p }.notifyPresent (.period p s.clock)

/-- SET-PERIOD at the period control (R2, R3). -/
def setPeriod (target : Nat) (s : State) : State × Reply :=
  match periodOf target with
  | none => (s, refuse .badValue [])
  | some p =>
    if periodMove s.period p = false then (s, refuse .badState [])
    else if p = .closed ∧ s.tabs ≠ [] then (s, refuse .busy [u16 s.tabs.length])
    else (s.changePeriod p, okWith [u8 p.code, u32 s.clock])

def execSetPeriod (src period : Nat) (s : State) : Outcome := request .setPeriod src (setPeriod period) s

/-- Day clear's part of a station record (R5, R102). -/
def Station.dayCleared (st : Station) : Station := { st with p16 := st.defaultPrep * 16, lastBumped := none }

/-- Day clear but for the period (R5). -/
def State.dayClear (s : State) : State :=
  { s with
    drawers := .replicate 33 .zero
    writeOffTotal := 0
    tabCounter := 1
    ticketCounter := 1
    stations := s.stations.map Station.dayCleared
    alerts := []
    alertsFull := false }

/-- END-DAY, taken in CLOSED (R5). -/
def endDay (s : State) : State × Reply := (s.dayClear.changePeriod .prep, okWith [u8 Period.prep.code, u32 s.clock])

def execEndDay (src : Nat) (s : State) : Outcome := request .endDay src endDay s

/-! ### Lanes -/

/-- LANE-RESTART (R170). -/
def laneRestart (lane : Nat) (s : State) : State × Reply :=
  match laneOfCode lane with
  | none => (s, refuse .badValue [])
  | some l => (s.restartLane l, okWith [u8 lane])

def execLaneRestart (src lane : Nat) (s : State) : Outcome := request .laneRestart src (laneRestart lane) s

/-- SET-LANE-ROLE (R168). -/
def setLaneRole (lane role : Nat) (s : State) : State × Reply :=
  match laneOfCode lane, roleOfCode role with
  | some l, some r =>
    let s1 := if (s.lane l).role = r then s else (s.setLane l { s.lane l with role := r }).restartLane l
    (s1, okWith [u8 lane, u8 role])
  | _, _ => (s, refuse .badValue [])

def execSetLaneRole (src lane role : Nat) (s : State) : Outcome := request .setLaneRole src (setLaneRole lane role) s

/-- One lane's settings stored; a new bit rate restarts the lane (R169, R185). -/
def State.configLane (s : State) (l : Fin 4) (rate : Rate) (window : Nat) : State :=
  let ln := s.lane l
  let s1 := s.setLane l { ln with rate := rate, window := clamp 2 20 window }
  if ln.rate = rate then s1 else s1.restartLane l

/-- The mark of a lane restarted in a SET-CONFIG answer: bit 0 for lane A (R185, R191). Bits 4 to 7 of the byte, which R191
leaves unnamed, are 0: DESIGN CHOICE (log 23). -/
def State.restartBit (s : State) (l : Fin 4) (rate : Rate) : Nat := if (s.lane l).rate = rate then 0 else 2 ^ l.val

/-- SET-CONFIG of four lanes whose bit rates are all known (R185). The last byte of its answer has 0 in bits 4 to 7: DESIGN CHOICE
(log 23). -/
def setConfigOf (hold : Nat) (ra rb rc rd : Rate) (w : Vector (Nat × Nat) 4) (s : State) : State × Reply :=
  let s0 := { s with holdTime := clamp 10 300 hold }
  let s1 := (((s0.configLane 0 ra w[0].2).configLane 1 rb w[1].2).configLane 2 rc w[2].2).configLane 3 rd w[3].2
  let bits := s.restartBit 0 ra + s.restartBit 1 rb + s.restartBit 2 rc + s.restartBit 3 rd
  (s1, okWith
    [u16 s1.holdTime, u8 ra.code, u8 rb.code, u8 rc.code, u8 rd.code,
      u8 (s1.lane 0).window, u8 (s1.lane 1).window, u8 (s1.lane 2).window, u8 (s1.lane 3).window, u8 bits])

/-- SET-CONFIG (R185): one unknown bit rate refuses it whole. -/
def setConfig (hold : Nat) (settings : Vector (Nat × Nat) 4) (s : State) : State × Reply :=
  match rateOf settings[0].1, rateOf settings[1].1, rateOf settings[2].1, rateOf settings[3].1 with
  | some ra, some rb, some rc, some rd => setConfigOf hold ra rb rc rd settings s
  | _, _, _, _ => (s, refuse .badValue [])

def execSetConfig (src hold : Nat) (settings : Vector (Nat × Nat) 4) (s : State) : Outcome :=
  request .setConfig src (setConfig hold settings) s

/-! ### READ-CONFIG and READ-ALERT -/

/-- The roles in one byte: bit 0 lane A, 1 for KITCHEN (R191). Bits 4 to 7, which R191 leaves unnamed, are 0: DESIGN CHOICE
(log 23). -/
def State.roleBits (s : State) : Nat :=
  (s.lane 0).role.code + 2 * (s.lane 1).role.code + 4 * (s.lane 2).role.code + 8 * (s.lane 3).role.code

/-- The presence of every drop: bit d - 1 for drop d (R191). -/
def State.presenceBits (s : State) : Nat := (allDrops.map fun d => if (s.drop d).present then 2 ^ (d - 1) else 0).sum

/-- READ-CONFIG (R186). -/
def readConfig (s : State) : State × Reply :=
  (s, okWith
    [u8 s.period.code, u32 s.clock, u8 s.roleBits, u32 s.presenceBits, u16 (Config.tabSlots - s.tabs.length),
      u16 s.freeLines, u16 s.freeTickets, u8 s.freeSettlements])

def execReadConfig (src : Nat) (s : State) : Outcome := request .readConfig src readConfig s

/-- READ-ALERT at the alert table (R188). -/
def readAlert (s : State) : State × Reply :=
  match s.alerts with
  | [] => (s, okWith [u8 0])
  | a :: rest =>
    ({ s with alerts := rest, alertsFull := if rest = [] then false else s.alertsFull },
      ⟨.ok, highMark s.alertsFull, [u8 a.kind.code, u16 a.subject, u32 a.clock, u8 rest.length]⟩)

def execReadAlert (src : Nat) (s : State) : Outcome := request .readAlert src readAlert s

end Sys2Proof.Machine
end

