-- ==== Sys2Proof/Machine/Kitchen.lean ====
section
/-! DEFINITION. Machine/Kitchen.lean: the kitchen router's requests about tickets (chapter 5): SEND, FIRE, KILL-TICKET. -/

namespace Sys2Proof.Machine

/-- The kind and state of a tab allow a send (R80's third check). -/
def Tab.sendable (t : Tab) : Bool := t.kind == .running || t.state == .settled

/-- SEND of a tab that passed its checks (R81, R85, R86). -/
def sendOf (tab : Nat) (hold rush : Bool) (t : Tab) (s : State) : State × Reply :=
  if s.gather t = [] then (s, okWith [u8 0, u8 0, u16 0])
  else match s.sendTab tab t hold rush with
  | .full needed free => (s, refuse .full [u8 needed, u8 free])
  | .done s1 made lost =>
    (if t.state = .settled then s1.retireCheck tab else s1, okWith [u8 made.length, u8 lost, u16 (s1.sentQuote made)])

/-- SEND at the kitchen router (R80). -/
def sendRequest (tab : Nat) (hold rush : Bool) (s : State) : State × Reply :=
  match s.tab tab with
  | none => (s, refuse .noTab [])
  | some t =>
    if t.writtenOff then (s, refuse .badState [u8 TabState.settled.code])
    else if t.sendable = false then (s, refuse .badState [u8 t.state.code])
    else sendOf tab hold rush t s

def execSend (src tab : Nat) (hold rush : Bool) (s : State) : Outcome := request .send src (sendRequest tab hold rush) s

/-- The HELD tickets of a tab, in creation order (R88). -/
def State.heldTickets (s : State) (tab : Nat) : List Nat :=
  (s.tickets.filter fun e => e.2.tab == tab && e.2.state == .held).map Prod.fst

/-- FIRE at the kitchen router (R88). -/
def fireRequest (tab : Nat) (s : State) : State × Reply :=
  match s.tab tab with
  | none => (s, refuse .noTab [])
  | some _ =>
    let ns := s.heldTickets tab
    let s1 := s.fireAll ns
    (s1, okWith [u8 ns.length, u16 (s1.sentQuote ns)])

def execFire (src tab : Nat) (s : State) : Outcome := request .fire src (fireRequest tab) s

/-- The lines a killed ticket's KILL-TICKET gives back: UNSENT, with no ticket reference (R97). -/
def State.returnLines (s : State) (k : Ticket) : State :=
  s.editTab k.tab fun t => t.editLines k.names fun l => { l with stage := .unsent, ticket := none }

/-- KILL-TICKET at the kitchen router (R97): the kill, the restore, the lines back to UNSENT, then the retirement check. -/
def killRequest (n : Nat) (s : State) : State × Reply :=
  match s.ticket n with
  | none => (s, refuse .badValue [])
  | some k =>
    if k.state = .bumped ∨ k.state = .killed then
      (s, refuse .badState [u8 (Config.ticketStateCode k.state.ordinal).toNat])
    else
      let s1 := ((s.killTicket n).restoreTicket k).returnLines k
      (s1.retireCheck k.tab, okWith [u16 n, u16 k.tab, u8 (s.ticketLines k).length])

def execKillTicket (src ticket : Nat) (s : State) : Outcome := request .killTicket src (killRequest ticket) s

end Sys2Proof.Machine
end

