-- ==== Sys2Proof/Machine/Menu.lean ====
section
/-! DEFINITION. Machine/Menu.lean: the menu table's requests (chapter 2): LOAD-ITEM, SET-PRICE, SET-STOCK, LOAD-TAX and the
stations' MARK-SOLD-OUT. -/

namespace Sys2Proof.Machine

/-- The name in a 16-byte field: its bytes before the first 00h (R22). -/
def nameOf (field : List Byte) : List Byte := field.takeWhile fun b => b != 0#8

/-- The kind a LOAD-ITEM gives: `none` in the inner option is UNDEFINED (R22, R191). -/
def itemKindOf : Nat → Option (Option ItemKind)
  | 0 => some none | 1 => some (some .plain) | 2 => some (some .modifier) | _ => none

/-- The checks of R22 after the kind: name, price, tax class, route, prep target, restricted flag. -/
def loadFieldsOk (name : List Byte) (price cls route prep restricted : Nat) : Bool :=
  printable (nameOf name) && decide ((nameOf name).length ≤ 16) && decide (price ≤ 99999) && decide (cls ≤ 7) &&
    decide (route ≤ 32) && decide (30 ≤ prep) && decide (prep ≤ 1800) && decide (restricted ≤ 1)

/-- LOAD-ITEM at the menu table (R22, R23). -/
def loadItem (item kind : Nat) (name : List Byte) (price cls route prep restricted low : Nat) (s : State) : State × Reply :=
  if isItemNumber item = false then (s, refuse .badValue [])
  else match itemKindOf kind with
  | none => (s, refuse .badValue [])
  | some k =>
    if loadFieldsOk name price cls route prep restricted = false then (s, refuse .badValue [])
    else match k with
    | none => ({ s with items := s.items.erase item }, okWith [u16 item, u16 0])
    | some k =>
      let mark := min Config.maxStock low
      let stored : Item :=
        { kind := k, name := nameOf name, price := price, cls := cls, route := dropField route, prep := prep,
          restricted := decide (restricted = 1), stock := (s.item item).bind Item.stock, lowMark := mark }
      (s.setItem item stored, okWith [u16 item, u16 mark])

def execLoadItem (src item kind : Nat) (name : List Byte) (price cls route prep restricted low : Nat) (s : State) : Outcome :=
  request .loadItem src (loadItem item kind name price cls route prep restricted low) s

/-- SET-PRICE at the menu table (R24). -/
def setPrice (item price : Nat) (s : State) : State × Reply :=
  match s.item item with
  | none => (s, refuse .noItem [])
  | some i =>
    if 99999 < price then (s, refuse .badValue [])
    else (s.setItem item { i with price := price }, okWith [u24 i.price, u24 price])

def execSetPrice (src item price : Nat) (s : State) : Outcome := request .setPrice src (setPrice item price) s

/-- SET-STOCK at the menu table (R25). -/
def setStock (item : Nat) (stock : Option Nat) (s : State) : State × Reply :=
  match s.item item with
  | none => (s, refuse .noItem [])
  | some i =>
    let after := stock.map (min Config.maxStock)
    (s.setItem item { i with stock := after }, okWith [stockData i.stock, stockData after])

def execSetStock (src item : Nat) (stock : Option Nat) (s : State) : Outcome := request .setStock src (setStock item stock) s

/-- LOAD-TAX at the menu table (R26). -/
def loadTax (cls rate : Nat) (s : State) : State × Reply :=
  if 7 < cls then (s, refuse .badValue [])
  else
    let stored := min Config.maxRate rate
    (s.setTaxRate cls stored, okWith [u8 cls, u16 stored])

def execLoadTax (src cls rate : Nat) (s : State) : Outcome := request .loadTax src (loadTax cls rate) s

/-- MARK-SOLD-OUT at the menu table (R32, R33). -/
def markSoldOut (item : Nat) (s : State) : State × Reply :=
  match s.item item with
  | none => (s, refuse .noItem [])
  | some i =>
    let s1 := s.setItem item { i with stock := some 0 }
    ((s1.enterAlert .soldOut item).notifyPresent (.soldOut item i.name), okWith [stockData i.stock])

def execMarkSoldOut (src item : Nat) (s : State) : Outcome := request .markSoldOut src (markSoldOut item) s

end Sys2Proof.Machine
end

