-- ==== Sys2Proof/Machine/SplitCalc.lean ====
section
/-! DEFINITION. Machine/SplitCalc.lean: the split computation (R136 to R141). Stages 1 and 2 are the kept totals (`totalsOf`,
R137). Amounts are exact whole numbers. -/

namespace Sys2Proof.Machine

/-! ### Stage 3: the spread of the goods (R138) -/

/-- The share numbers 1 to n. -/
def shareNumbers (n : Nat) : List Nat := List.range' 1 n

/-- The share numbers from the cursor upward, going on from n to 1. -/
def scanFrom (n cursor : Nat) : List Nat := (List.range n).map fun i => (cursor - 1 + i) % n + 1

/-- The shares that take an odd minor unit: the first r of the set that the scan meets. -/
def unitTakers (n cursor : Nat) (set : BitVec 12) (r : Nat) : List Nat := ((scanFrom n cursor).filter (inSet set)).take r

/-- The cursor after a line: one past the last taker, going on from n to 1. -/
def nextCursor (n cursor : Nat) (takers : List Nat) : Nat :=
  match takers.getLast? with
  | some j => j % n + 1
  | none => cursor

/-- What each share 1 to n takes of goods g, where k shares stand in the set and `takers` take a unit more. -/
def portions (n g k : Nat) (set : BitVec 12) (takers : List Nat) : List Nat :=
  (shareNumbers n).map fun j => if inSet set j then g / k + (if takers.contains j then 1 else 0) else 0

/-- A line's class and its portions, for every line in turn. -/
def spread (n : Nat) : Nat → List Line → List (Nat × List Nat)
  | _, [] => []
  | cursor, l :: rest =>
      let k := ((shareNumbers n).filter (inSet l.shares)).length
      let takers := unitTakers n cursor l.shares (l.goods % k)
      (l.cls, portions n l.goods k l.shares takers) :: spread n (nextCursor n cursor takers) rest

/-- The sum over lines of what share j took. -/
def takenBy (rows : List (Nat × List Nat)) (j : Nat) : Nat := (rows.map fun r => r.2.getD (j - 1) 0).sum

/-! ### Stages 4 and 5: the largest remainders (R139, R140) -/

/-- How many shares stand ahead of share index i: a larger remainder, or an equal one at a lower number. -/
def rankOf (rems : List Nat) (i : Nat) : Nat :=
  ((List.range rems.length).filter fun m =>
    decide (rems.getD i 0 < rems.getD m 0) || (rems.getD m 0 == rems.getD i 0 && decide (m < i))).length

/-- An amount divided among shares with the bases given: floors, and the leftover units to the largest remainders. -/
def largestRemainder (amount rate : Nat) (bases : List Nat) : List Nat :=
  let floors := bases.map fun b => b * rate / 10000
  let rems := bases.map fun b => b * rate % 10000
  let left := amount - floors.sum
  floors.mapIdx fun i f => f + (if rankOf rems i < left then 1 else 0)

/-! ### Stage 6 -/

/-- The share records of a plan: n shares over the lines with their sets, all UNPAID (R136 to R141). -/
def splitShares (rate : Nat → Nat) (service : Nat) (totals : Totals) (n : Nat) (lines : List Line) : List Share :=
  let rows := spread n 1 (activeLines lines)
  let goods := (shareNumbers n).map (takenBy rows)
  let taxes := (List.range 8).map fun c =>
    largestRemainder (totals.taxes.getD c 0) (rate c) ((shareNumbers n).map (takenBy (rows.filter fun r => r.1 == c)))
  let services := largestRemainder totals.service service goods
  (List.range n).map fun i =>
    let g := goods.getD i 0
    let ts := taxes.map fun row => row.getD i 0
    let sv := services.getD i 0
    { goods := g, taxes := ts, service := sv, total := g + ts.sum + sv, pay := .unpaid }

/-- The split computation on a tab with its sets given, from the figures of its ACTIVE lines (R136, R137). -/
def State.splitTab (s : State) (t : Tab) (n : Nat) : List Share :=
  splitShares s.taxRate t.serviceRate (totalsOf s.taxRate t.serviceRate t.lines) n t.lines

end Sys2Proof.Machine
end

