-- ==== Sys2Proof/Machine/Split.lean ====
section
/-! DEFINITION. Machine/Split.lean: the plan requests (chapter 7): SPLIT, ASSIGN, UNSPLIT. -/

namespace Sys2Proof.Machine

/-- What a refusal of the gate of R125 carries: the state and, when SETTLING, the HELD and PAID counts. -/
def planRefusal (t : Tab) : Reply :=
  match t.settlement with
  | some shares =>
      if t.state = .settling then
        refuse .badState [u8 t.state.code, u8 (countShares shares Pay.isHeld), u8 (countShares shares Pay.isPaid)]
      else refuse .badState [u8 t.state.code]
  | none => refuse .badState [u8 t.state.code]

/-- Every share of the tab is UNPAID (R125). -/
def Tab.allUnpaid (t : Tab) : Bool := (t.settlement.getD []).all fun x => x.pay == .unpaid

/-- The gate of R125; an OPEN tab takes SPLIT alone. -/
def planGate (openToo : Bool) (t : Tab) : Option Reply :=
  match t.state with
  | .opened => if openToo then none else some (planRefusal t)
  | .settling => if t.allUnpaid then none else some (planRefusal t)
  | .settled => some (planRefusal t)

/-- The first failing entry of an assignment list: its code, its position from 1 (DEDUCED, log 7) and its line index (R127's
fourth check). -/
def badEntry (t : Tab) (n : Nat) : Nat → List Nat → List SplitEntry → Option (Code × Nat × Nat)
  | _, _, [] => none
  | pos, earlier, e :: rest =>
      if (t.activeLine e.index).isNone then some (.noLine, pos, e.index)
      else if goodSet n e.set = false then some (.badSet, pos, e.index)
      else if earlier.contains e.index then some (.badSet, pos, e.index)
      else badEntry t n (pos + 1) (e.index :: earlier) rest

/-- The set a SPLIT gives a line: its entry's, or all shares (R128). -/
def setFor (n : Nat) (entries : List SplitEntry) (ix : Nat) : BitVec 12 :=
  match entries.find? fun e => e.index == ix with
  | some e => e.set
  | none => allShares n

/-- The tab with its plan made anew: SETTLING, every share computed, the revision raised (R128, R129, R131). -/
def State.planned (s : State) (t : Tab) (n : Nat) : Tab :=
  { t with state := .settling, settlement := some (s.splitTab t n) }.edited

/-- The answer of SPLIT and ASSIGN (R130). -/
def planAnswer (t : Tab) : Reply :=
  okWith ([u16 t.revision, u8 t.shareCount, u32 t.totals.total] ++ (t.settlement.getD []).map fun x => u32 x.total)

/-- The ACTIVE lines with the sets of a SPLIT (R128). -/
def Tab.withSets (t : Tab) (n : Nat) (entries : List SplitEntry) : Tab :=
  { t with lines := t.lines.map fun l => if l.voided then l else { l with shares := setFor n entries l.index } }

/-- SPLIT of a tab that passed the common checks (R127 to R129). A refusal carries the position of the failing entry in one byte:
DESIGN CHOICE (log 24), since R191 gives a width to a position on a ticket alone. -/
def splitOf (tab n : Nat) (entries : List SplitEntry) (t : Tab) (s : State) : State × Reply :=
  if n < 1 ∨ 12 < n then (s, refuse .badValue [])
  else if activeLines t.lines = [] then (s, refuse .badState [u8 t.state.code, u8 0])
  else if t.state = .opened ∧ s.freeSettlements = 0 then (s, refuse .full [u8 0])
  else match badEntry t n 1 [] entries with
  | some (c, pos, ix) => (s, refuse c [u8 pos, u8 ix])
  | none =>
    let t1 := s.planned (t.withSets n entries) n
    (s.setTab tab t1, planAnswer t1)

/-- SPLIT at the settlement unit (R126, R127). -/
def splitRequest (tab rev n : Nat) (entries : List SplitEntry) (s : State) : State × Reply :=
  match s.editChecks tab rev (planGate true) with
  | .error r => (s, r)
  | .ok t => splitOf tab n entries t s

def execSplit (src tab rev n : Nat) (entries : List SplitEntry) (s : State) : Outcome :=
  request .split src (splitRequest tab rev n entries) s

/-- ASSIGN at the settlement unit (R131). -/
def assignRequest (tab rev index : Nat) (set : BitVec 12) (s : State) : State × Reply :=
  match s.editChecks tab rev (planGate false) with
  | .error r => (s, r)
  | .ok t =>
    if (t.activeLine index).isNone then (s, refuse .noLine [])
    else if goodSet t.shareCount set = false then (s, refuse .badSet [])
    else
      let t1 := s.planned (t.editLines (· == index) fun l => { l with shares := set }) t.shareCount
      (s.setTab tab t1, planAnswer t1)

def execAssign (src tab rev index : Nat) (set : BitVec 12) (s : State) : Outcome :=
  request .assign src (assignRequest tab rev index set) s

/-- The tab back to OPEN with no sets and no settlement record (R132). -/
def Tab.unplanned (t : Tab) : Tab :=
  { t with
    state := .opened
    settlement := none
    lines := t.lines.map fun (l : Line) => if l.voided then l else { l with shares := 0 } : Tab }.edited

/-- UNSPLIT at the settlement unit (R132). -/
def unsplitRequest (tab rev : Nat) (s : State) : State × Reply :=
  match s.editChecks tab rev (planGate false) with
  | .error r => (s, r)
  | .ok t => (s.setTab tab t.unplanned, okWith [u16 t.unplanned.revision, u32 t.totals.total])

def execUnsplit (src tab rev : Nat) (s : State) : Outcome := request .unsplit src (unsplitRequest tab rev) s

end Sys2Proof.Machine
end

