-- ==== Sys2Proof/Machine/Stations.lean ====
section
/-! DEFINITION. Machine/Stations.lean: stations at work (chapter 6): BUMP, RECALL, REDRAW-ME, LOAD-STATION and QUOTE. -/

namespace Sys2Proof.Machine

/-- The opening till of a tab, who gets the notices of its tickets (R111); 0 when there is no such tab. -/
def State.openingTill (s : State) (tab : Nat) : Nat := ((s.tabs.find tab).map Tab.openingTill).getD 0

/-- The tab of the ticket a station's last-bumped reference names (R113). -/
def State.referencedTab (s : State) (d : Nat) : Option Nat :=
  ((s.station d).lastBumped.bind fun b => s.ticket b.ticket).map Ticket.tab

/-- Moves the lines a ticket names without a voided mark to a kitchen stage (R109, R114). -/
def State.stageLines (s : State) (k : Ticket) (st : Stage) : State :=
  s.editTab k.tab fun t => t.editLines k.names fun l => { l with stage := st }

/-- The prep sample: ticks since the ticket came onto the screen, at most 1,800 (R110). -/
def State.sampleOf (s : State) (k : Ticket) : Nat := min 1800 (ticksBetween (k.firstShown.getD s.clock) s.clock)

/-- P16 after a sample (R110). -/
def smoothed (p16 sample : Nat) : Nat := (7 * p16 + 16 * sample + 4) / 8

/-- BUMP of a ticket on the screen, up to its retirement checks (R109 steps 1 to 6). -/
def bumpTicket (d n : Nat) (k : Ticket) (s : State) : State :=
  let s1 := ((s.takeOut n d).editTicket n fun k => { k with state := .bumped }).stageLines k .ready
  let st := s1.station d
  let s2 := s1.setStation d
    { st with p16 := smoothed st.p16 (s.sampleOf k), lastBumped := some ⟨n, clockAfter s.clock Config.recallWindow⟩ }
  let s3 := s2.notify (s2.openingTill k.tab) (.ready k.tab n d)
  (s3.fillLive d).syncScreen d (s.screen d) (some n)

/-- BUMP at the kitchen router (R109). The tab of the reference it replaces is checked as well (R113). -/
def bumpRequest (d n : Nat) (s : State) : State × Reply :=
  match (if (s.screen d).contains n then s.ticket n else none) with
  | none => (s, refuse .notShown [])
  | some k =>
    let s1 := bumpTicket d n k s
    let s2 := match s.referencedTab d with
      | some old => s1.retireCheck old
      | none => s1
    (s2.retireCheck k.tab, okWith [u16 n, u16 k.tab, u8 (s.ticketLines k).length, u16 (s.sampleOf k)])

def execBump (src ticket : Nat) (s : State) : Outcome := request .bump src (bumpRequest src ticket) s

/-- Sends a LIVE ticket back to the front of WAITING, front-placed (R104, R114). -/
def State.sendBack (d : Nat) (s : State) (n : Nat) : State :=
  let st := s.station d
  (s.setStation d { st with live := st.live.filter (· != n), waiting := n :: st.waiting }).editTicket n
    fun k => { k with state := .waiting, front := true }

/-- At the load limit the last ticket of LIVE makes room for the recalled one (R114 step 2). -/
def State.makeRoom (s : State) (d : Nat) : State :=
  let st := s.station d
  match st.live.getLast? with
  | some last => if st.limit ≤ st.live.length then s.sendBack d last else s
  | none => s

/-- RECALL of the ticket a reference names (R114). -/
def recallTicket (d n : Nat) (k : Ticket) (s : State) : State :=
  let s1 := (s.setStation d { s.station d with lastBumped := none }).makeRoom d
  let s2 := (s1.setStation d { s1.station d with live := n :: (s1.station d).live }).editTicket n
    fun k => { k with state := .live, front := true, age := 0, level := 0, firstShown := none }
  let s3 := (s2.stageLines k .sent).notify (s.openingTill k.tab) (.recalled k.tab n d)
  s3.syncScreen d (s.screen d) none

/-- RECALL at the kitchen router (R114). -/
def recallRequest (d : Nat) (s : State) : State × Reply :=
  match (s.station d).lastBumped with
  | none => (s, refuse .noRecall [])
  | some b =>
    match s.ticket b.ticket with
    | none => (s, refuse .noRecall [])
    | some k => (recallTicket d b.ticket k s, okWith [u16 b.ticket, u16 k.tab])

def execRecall (src : Nat) (s : State) : Outcome := request .recall src (recallRequest src) s

/-- REDRAW-ME at the kitchen router (R108). -/
def redrawRequest (d : Nat) (s : State) : State × Reply := (s.redraw d, okWith [u8 (s.screen d).length])

def execRedrawMe (src : Nat) (s : State) : Outcome := request .redrawMe src (redrawRequest src) s

/-! ### LOAD-STATION -/

/-- A ticket at its place in a list that stands in fire order, oldest first (R104). -/
def State.insertFired (s : State) (n : Nat) : List Nat → List Nat
  | [] => [n]
  | m :: rest =>
    match s.ticket n, s.ticket m with
    | some a, some b => if firedBefore s.clock a b then n :: m :: rest else m :: s.insertFired n rest
    | _, _ => n :: m :: rest

/-- Tickets in fire order, oldest fired first (R104). -/
def State.inFireOrder (s : State) (ns : List Nat) : List Nat := ns.foldr s.insertFired []

/-- The lists after the load limit changes: admission when it is raised, the cut when it is lowered (R104). -/
def State.relimit (s : State) (d old : Nat) : State :=
  let st := s.station d
  if old < st.limit then s.fillLive d
  else if st.limit < old then (s.inFireOrder (st.live.drop st.limit)).foldl (State.sendBack d) s
  else s

/-- The settings of a LOAD-STATION as stored, on a station's record (R103, R105). -/
def Station.loaded (st : Station) (depth limit crew fallback prep interval : Nat) : Station :=
  let prep1 := clamp 30 1800 prep
  { st with
    depth := clamp 1 8 depth
    limit := clamp 1 32 limit
    crew := clamp 1 8 crew
    fallback := dropField (min 32 fallback)
    defaultPrep := prep1
    interval := clamp 60 600 interval
    p16 := if prep1 = st.defaultPrep then st.p16 else prep1 * 16 }

/-- LOAD-STATION at the kitchen router (R103 to R105). -/
def loadStation (d depth limit crew fallback prep interval : Nat) (s : State) : State × Reply :=
  if s.isStation d = false then (s, refuse .badValue [])
  else
    let old := s.station d
    let st := old.loaded depth limit crew fallback prep interval
    let s1 := (s.setStation d st).relimit d old.limit
    (s1.syncScreen d (s.screen d) none,
      okWith [u8 st.depth, u8 st.limit, u8 st.crew, u8 (dropCode st.fallback), u16 st.defaultPrep, u16 st.interval, u16 st.p16])

def execLoadStation (src drop depth limit crew fallback prep interval : Nat) (s : State) : Outcome :=
  request .loadStation src (loadStation drop depth limit crew fallback prep interval) s

/-! ### QUOTE -/

/-- QUOTE at the kitchen router (R119). -/
def quoteRequest (item : Nat) (s : State) : State × Reply :=
  match s.item item with
  | none => (s, refuse .noItem [])
  | some i =>
    if i.kind = .modifier then (s, refuse .noItem [])
    else match s.resolve i.route with
    | .lost => (s, okWith [u8 0, u16 0])
    | .to d _ => (s, okWith [u8 d, u16 (s.quoteOf d)])

def execQuote (src item : Nat) (s : State) : Outcome := request .quote src (quoteRequest item) s

end Sys2Proof.Machine
end

