-- ==== Sys2Proof/Machine/Tabs.lean ====
section
/-! DEFINITION. Machine/Tabs.lean: the tab store's editing requests (chapter 3): OPEN-TAB, ADD-LINE, VOID-LINE, SET-LABEL,
SET-SERVICE, CLOSE-EMPTY, MERGE-TABS. -/

namespace Sys2Proof.Machine

/-- The number a new tab takes: the counter's, or the next upward that no tab has (R37). -/
def State.freshTab (s : State) : Nat :=
  firstFree (s.tabs.map (·.1)) Config.maxTabNumber s.tabs.length s.tabCounter

/-- A tab as OPEN-TAB makes it (R36). -/
def Tab.fresh (kind : TabKind) (openingTill : Nat) (label : List Byte) : Tab where
  state := .opened
  kind := kind
  openingTill := openingTill
  label := label
  serviceRate := 0
  revision := 0
  nextIndex := 1
  lines := []
  totals := ⟨0, List.replicate 8 0, 0, 0⟩
  writtenOff := false
  settlement := none
  paidFigures := none

/-- OPEN-TAB at the tab store (R46, R37). -/
def openTab (src kind : Nat) (label : List Byte) (s : State) : State × Reply :=
  match tabKindOf kind with
  | none => (s, refuse .badValue [])
  | some k =>
    if printable label = false then (s, refuse .badValue [])
    else if Config.tabSlots ≤ s.tabs.length then (s, refuse .full [])
    else
      let n := s.freshTab
      ({ s.setTab n (Tab.fresh k src label) with tabCounter := if n = Config.maxTabNumber then 1 else n + 1 },
        okWith [u16 n, u16 0])

def execOpenTab (src kind : Nat) (label : List Byte) (s : State) : Outcome := request .openTab src (openTab src kind label) s

/-! ### ADD-LINE -/

/-- The first entry that is not of its kind, the item first (R48's first check). -/
def State.wrongEntry (s : State) (item : Nat) (mods : List Nat) : Option Nat :=
  let is (k : ItemKind) (x : Nat) : Bool := match s.item x with
    | some i => i.kind == k
    | none => false
  if is .plain item = false then some item else mods.find? fun m => !is .modifier m

/-- The first restricted entry, the item first (R48's third check). -/
def State.restrictedEntry (s : State) (item : Nat) (mods : List Nat) : Option Nat :=
  (item :: mods).find? fun x => ((s.item x).map Item.restricted).getD false

/-- The unit price a line captures: the item's price plus each modifier entry's (R20). -/
def State.unitPrice (s : State) (item : Nat) (mods : List Nat) : Nat :=
  ((item :: mods).map fun x => ((s.item x).map Item.price).getD 0).sum

/-- The line an ADD-LINE makes (R39, R49). -/
def State.newLine (s : State) (index item qty : Nat) (mods : List Nat) : Line where
  index := index
  item := item
  qty := qty
  mods := mods
  unitPrice := s.unitPrice item mods
  cls := ((s.item item).map Item.cls).getD 0
  voided := false
  stage := if ((s.item item).bind Item.route).isSome then .unsent else .none
  ticket := none
  shares := 0

/-- The POOL-LOW check of an ADD-LINE that took a record (R42). -/
def State.poolCheck (s : State) : State :=
  if s.freeLines < Config.poolLowMark then s.enterAlert .poolLow 0 else s

/-- ADD-LINE on a tab that passed the common checks: the six checks of R48, then R49. -/
def addLineTo (tab item qty : Nat) (mods : List Nat) (t : Tab) (s : State) : State × Reply :=
  match s.wrongEntry item mods with
  | some x => (s, refuse .noItem [u16 x])
  | none =>
    if qty < 1 ∨ 99 < qty then (s, refuse .badValue [])
    else match (if s.period = .lastCall then s.restrictedEntry item mods else none) with
    | some x => (s, refuse .restricted [u16 x])
    | none =>
      let l := s.newLine t.nextIndex item qty mods
      if Config.tabLines < t.nextIndex ∨ Config.maxGoods < t.totals.goods + l.goods then (s, refuse .limit [])
      else if s.freeLines = 0 then (s.enterAlert .poolLow 0, refuse .full [])
      else match s.shortItem item mods qty with
      | some x => (s, refuse .soldOut [u16 x])
      | none =>
        let s1 := s.reserve item mods qty
        let t1 := (s1.withTotals { t with lines := t.lines ++ [l], nextIndex := t.nextIndex + 1 }).edited
        ((s1.setTab tab t1).poolCheck, okWith [u16 t1.revision, u8 l.index, u32 t1.totals.total])

/-- ADD-LINE at the tab store (R44, R48, R49). -/
def addLine (tab rev item qty : Nat) (mods : List Nat) (s : State) : State × Reply :=
  match s.editChecks tab rev onlyOpen with
  | .error r => (s, r)
  | .ok t => addLineTo tab item qty mods t s

def execAddLine (src tab rev item qty : Nat) (mods : List Nat) (s : State) : Outcome :=
  request .addLine src (addLine tab rev item qty mods) s

/-! ### VOID-LINE -/

/-- Whether a void gives the line's units back, from its stage and its ticket's state (R52's table). -/
def State.voidRestores (s : State) (l : Line) : Bool :=
  match l.stage with
  | .none | .unsent => true
  | .sent =>
    match l.ticket.bind s.ticket with
    | some k => k.state == .held || k.state == .waiting || k.state == .live
    | none => false
  | .ready => false

/-- The position, from 1, of a line's reference among a ticket's references (R106). -/
def Ticket.position (k : Ticket) (ix : Nat) : Nat := k.refs.findIdx (fun r => r.index == ix) + 1

/-- Tells a line's ticket of its void: its mark, then the kill or the UPDATE (R53, R98). -/
def State.voidOnTicket (s : State) (n ix : Nat) : State :=
  match s.ticket n with
  | none => s
  | some k =>
    let s1 := s.editTicket n fun k =>
      { k with refs := k.refs.map fun r => if r.index = ix then { r with voided := true } else r }
    if (s1.ticket n).any (fun k => k.unmarked == 0) then (s1.killTicket n).retireCheck k.tab
    else if (s1.screen k.station).contains n then s1.post k.station [.update n (k.position ix)]
    else s1

/-- VOID-LINE on a tab that passed the common checks (R51 to R53). -/
def voidLineOf (tab index : Nat) (t : Tab) (s : State) : State × Reply :=
  match t.activeLine index with
  | none => (s, refuse .noLine [])
  | some l =>
    let back := s.voidRestores l
    let t1 := (s.withTotals (t.editLines (· == index) fun l => { l with voided := true })).edited
    let s1 := (if back then s.restore l else s).setTab tab t1
    let s2 := match l.ticket with
      | some n => s1.voidOnTicket n index
      | none => s1
    (s2, ⟨.ok, lowMark back, [u16 t1.revision, u32 t1.totals.total]⟩)

/-- VOID-LINE at the tab store (R44, R51). -/
def voidLine (tab rev index : Nat) (s : State) : State × Reply :=
  match s.editChecks tab rev onlyOpen with
  | .error r => (s, r)
  | .ok t => voidLineOf tab index t s

def execVoidLine (src tab rev index : Nat) (s : State) : Outcome := request .voidLine src (voidLine tab rev index) s

/-! ### SET-LABEL, SET-SERVICE, CLOSE-EMPTY -/

/-- SET-LABEL's state gate: OPEN or SETTLING (R38, R55). -/
def notSettled (t : Tab) : Option Reply :=
  if t.state = .settled then some (refuse .badState [u8 t.state.code]) else none

/-- SET-LABEL at the tab store (R55). -/
def setLabel (tab rev : Nat) (label : List Byte) (s : State) : State × Reply :=
  match s.editChecks tab rev notSettled with
  | .error r => (s, r)
  | .ok t =>
    if printable label = false then (s, refuse .badValue [])
    else
      let t1 := { t with label := label }.edited
      (s.setTab tab t1, okWith [u16 t1.revision])

def execSetLabel (src tab rev : Nat) (label : List Byte) (s : State) : Outcome :=
  request .setLabel src (setLabel tab rev label) s

/-- SET-SERVICE at the tab store (R56). -/
def setService (tab rev rate : Nat) (s : State) : State × Reply :=
  match s.editChecks tab rev onlyOpen with
  | .error r => (s, r)
  | .ok t =>
    let t1 := (s.withTotals { t with serviceRate := min Config.maxRate rate }).edited
    (s.setTab tab t1, okWith [u16 t1.revision, u16 t1.serviceRate, u32 t1.totals.total])

def execSetService (src tab rev rate : Nat) (s : State) : Outcome := request .setService src (setService tab rev rate) s

/-- CLOSE-EMPTY at the tab store (R57). -/
def closeEmpty (tab rev : Nat) (s : State) : State × Reply :=
  match s.editChecks tab rev onlyOpen with
  | .error r => (s, r)
  | .ok t =>
    if activeLines t.lines = [] then (s.removeTab tab, okWith [u16 t.edited.revision])
    else (s, refuse .badState [u8 (activeLines t.lines).length])

def execCloseEmpty (src tab rev : Nat) (s : State) : Outcome := request .closeEmpty src (closeEmpty tab rev) s

/-! ### MERGE-TABS -/

/-- The index a moved line takes: B's next line index plus its place among A's ACTIVE lines (R59). -/
def movedIndex (a : Tab) (first ix : Nat) : Option Nat :=
  let moved := (activeLines a.lines).map Line.index
  if moved.contains ix then some (first + moved.idxOf ix) else none

/-- A's ACTIVE lines with their new indices (R59). -/
def movedLines (a : Tab) (first : Nat) : List Line :=
  (activeLines a.lines).mapIdx fun i l => { l with index := first + i }

/-- A ticket of A after the merge: a reference to a moved line takes its new index; any other keeps only its voided mark. -/
def mergeTicket (a : Tab) (tabB first : Nat) (k : Ticket) : Ticket :=
  { k with
    tab := tabB
    refs := k.refs.map fun r => match movedIndex a first r.index with
      | some ix => { r with index := ix }
      | none => ⟨0, true⟩ }

/-- A ticket of A names at least one moved line (R59). -/
def namesMoved (a : Tab) (k : Ticket) : Bool := k.refs.any fun r => (movedIndex a 0 r.index).isSome

/-- B after the merge: A's lines at the end, A's label if B has none, totals and revision (R59, R60). -/
def State.mergedTab (s : State) (a b : Tab) : Tab :=
  (s.withTotals
    { b with
      lines := b.lines ++ movedLines a b.nextIndex
      nextIndex := b.nextIndex + (activeLines a.lines).length
      label := if b.label = [] then a.label else b.label }).edited

/-- The merge of A into B: tickets, references, B's record, A's retirement (R59, R60). -/
def mergeInto (tabA tabB : Nat) (a b : Tab) (s : State) : State :=
  let drops (e : Nat × Ticket) : Bool := e.2.tab == tabA && !namesMoved a e.2
  let moves (e : Nat × Ticket) : Nat × Ticket := if e.2.tab = tabA then (e.1, mergeTicket a tabB b.nextIndex e.2) else e
  let gone := (s.tickets.filter drops).map Prod.fst
  let s1 := { s.clearRefs gone.contains with tickets := (s.tickets.filter fun e => !drops e).map moves }
  (s1.setTab tabB (s.mergedTab a b)).removeTab tabA

/-- The first new index of a merge's answer. With no line moved the manual gives none: a free value (log 4). -/
def firstNewIndex (a b : Tab) (s : State) : State × Nat :=
  if activeLines a.lines = [] then (s.drawFree.1, s.drawFree.2.toNat) else (s, b.nextIndex)

/-- MERGE-TABS at the tab store (R58 to R60). -/
def mergeTabs (tabA revA tabB revB : Nat) (s : State) : State × Reply :=
  match s.tab tabA with
  | none => (s, refuse .noTab [u16 tabA])
  | some a =>
    match s.tab tabB with
    | none => (s, refuse .noTab [u16 tabB])
    | some b =>
      if tabA = tabB then (s, refuse .badValue [])
      else if a.state ≠ .opened then (s, refuse .badState [u16 tabA, u8 a.state.code])
      else if b.state ≠ .opened then (s, refuse .badState [u16 tabB, u8 b.state.code])
      else if a.revision ≠ revA then (s, refuse .stale [u16 tabA, u16 a.revision])
      else if b.revision ≠ revB then (s, refuse .stale [u16 tabB, u16 b.revision])
      else if 65 < b.nextIndex + (activeLines a.lines).length ∨ Config.maxGoods < b.totals.goods + a.totals.goods then
        (s, refuse .limit [])
      else
        let first := firstNewIndex a b s
        let b1 := s.mergedTab a b
        (mergeInto tabA tabB a b first.1,
          okWith [u16 b1.revision, u32 b1.totals.total, u8 (activeLines a.lines).length, u8 first.2, u16 a.edited.revision])

def execMergeTabs (src tabA revA tabB revB : Nat) (s : State) : Outcome :=
  request .mergeTabs src (mergeTabs tabA revA tabB revB) s

end Sys2Proof.Machine
end

