-- ==== Sys2Proof/Machine/Tender.lean ====
section
/-! DEFINITION. Machine/Tender.lean: the settlement unit in payment (chapter 8): holds, TENDER-BEGIN, TENDER-COMMIT,
TENDER-CANCEL, the SETTLED change, drawers, READ-DRAWER, CLOSE-DRAWER, WRITE-OFF, and the expiry of a hold. -/

namespace Sys2Proof.Machine

/-! ### Holds -/

/-- A tab in payment and its share: the checks TENDER-BEGIN, TENDER-COMMIT and TENDER-CANCEL share (R147, R150, R153).
`noShare` is what their NO-SHARE refusals carry. -/
def State.tenderChecks (s : State) (tab share : Nat) (noShare : Tab → List Field) : Except Reply (Tab × Share) :=
  match s.tab tab with
  | none => .error (refuse .noTab [])
  | some t =>
    if t.state ≠ .settling then .error (refuse .badState [u8 t.state.code])
    else match t.share share with
    | none => .error (refuse .noShare (noShare t))
    | some x => .ok (t, x)

/-- The share HELD by a till, its expiry the clock plus H (R147). -/
def State.holdShare (s : State) (tab share src : Nat) (t : Tab) (x : Share) : State :=
  s.setTab tab (t.setShare share { x with pay := .held src (clockAfter s.clock s.holdTime) })

/-- TENDER-BEGIN at the settlement unit (R147). -/
def tenderBegin (src tab share : Nat) (s : State) : State × Reply :=
  match s.tenderChecks tab share (fun t => [u8 t.shareCount]) with
  | .error r => (s, r)
  | .ok (t, x) =>
    let ok (rearmed : Bool) : Reply := ⟨.ok, lowMark rearmed, [u32 x.total, u32 (clockAfter s.clock s.holdTime)]⟩
    match x.pay with
    | .unpaid =>
      match s.hold src with
      | some h => (s, refuse .badState [u16 h.tab, u8 h.share])
      | none => ((s.holdShare tab share src t x).setHold src (some ⟨tab, share⟩), ok false)
    | .held till _ =>
      if till = src then (s.holdShare tab share src t x, ok true) else (s, refuse .heldElsewhere [u8 till])
    | .paid kind _ _ _ _ till => (s, refuse .badState [u8 till, u8 kind.code])

def execTenderBegin (src tab share : Nat) (s : State) : Outcome := request .tenderBegin src (tenderBegin src tab share) s

/-- A HELD share back to UNPAID, its till's hold record emptied (R148, R153). -/
def State.releaseShare (s : State) (tab share till : Nat) (t : Tab) (x : Share) : State :=
  (s.setTab tab (t.setShare share { x with pay := .unpaid })).setHold till none

/-- TENDER-CANCEL at the settlement unit (R153). -/
def tenderCancel (src tab share : Nat) (s : State) : State × Reply :=
  match s.tenderChecks tab share (fun t => [u8 t.shareCount]) with
  | .error r => (s, r)
  | .ok (t, x) =>
    match x.pay with
    | .unpaid => (s, refuse .badState [])
    | .held till _ =>
      if till = src then (s.releaseShare tab share src t x, okWith []) else (s, refuse .heldElsewhere [u8 till])
    | .paid _ _ _ _ _ till => (s, refuse .badState [u8 till])

def execTenderCancel (src tab share : Nat) (s : State) : Outcome := request .tenderCancel src (tenderCancel src tab share) s

/-- The expiry of a hold whose expiry the clock has reached, with its HOLD-LAPSED notice; nothing otherwise (R148). -/
def State.expireHold (s : State) (tab share : Nat) : State :=
  match s.tabs.find tab with
  | none => s
  | some t =>
    match t.share share with
    | none => s
    | some x =>
      match x.pay with
      | .held till expiry =>
        if expiry = s.clock then (s.releaseShare tab share till t x).notify till (.holdLapsed tab share) else s
      | _ => s

/-! ### Judging a tender -/

/-- The change and the voucher excess of a tender that is accepted (R151). -/
def judgeTender (kind : TenderKind) (due tendered : Nat) : Option (Nat × Nat) :=
  match kind with
  | .cash => if due ≤ tendered then some (tendered - due, 0) else none
  | .card => if tendered = due then some (0, 0) else none
  | .voucher => if due ≤ tendered then some (0, tendered - due) else none
  | .writeOff => none

/-- An addition to a drawer field, which stops at 999,999,999 (R157). -/
def addCapped (a b : Nat) : Nat := min Config.moneyCap (a + b)

/-- The additions a commit makes to a drawer, field by field in R156's order (R157). -/
def creditOf (kind : TenderKind) (due tip change excess : Nat) : Drawer where
  cashCount := if kind = .cash then 1 else 0
  cardCount := if kind = .card then 1 else 0
  voucherCount := if kind = .voucher then 1 else 0
  cashAmount := if kind = .cash then due else 0
  cardAmount := if kind = .card then due else 0
  voucherAmount := if kind = .voucher then due else 0
  excess := excess
  tips := tip
  change := change
  sharesPaid := 1
  saturated := false

/-- A drawer's ten counts and amounts, in R156's order. -/
def Drawer.amounts (d : Drawer) : List Nat :=
  [d.cashCount, d.cardCount, d.voucherCount, d.cashAmount, d.cardAmount, d.voucherAmount, d.excess, d.tips, d.change, d.sharesPaid]

/-- Some addition would take a field above 999,999,999 (R157). -/
def saturates (d c : Drawer) : Bool := (List.zipWith (· + ·) d.amounts c.amounts).any fun v => decide (Config.moneyCap < v)

/-- A drawer credited, each field on its own (R157). -/
def Drawer.credited (d c : Drawer) : Drawer where
  cashCount := addCapped d.cashCount c.cashCount
  cardCount := addCapped d.cardCount c.cardCount
  voucherCount := addCapped d.voucherCount c.voucherCount
  cashAmount := addCapped d.cashAmount c.cashAmount
  cardAmount := addCapped d.cardAmount c.cardAmount
  voucherAmount := addCapped d.voucherAmount c.voucherAmount
  excess := addCapped d.excess c.excess
  tips := addCapped d.tips c.tips
  change := addCapped d.change c.change
  sharesPaid := addCapped d.sharesPaid c.sharesPaid
  saturated := d.saturated || saturates d c

/-- Credits a till's drawer, with the alert of a saturating addition (R157). -/
def State.credit (s : State) (till : Nat) (c : Drawer) : State :=
  let s1 := s.setDrawer till ((s.drawer till).credited c)
  if saturates (s.drawer till) c then s1.enterAlert .drawerSaturated till else s1

/-! ### The SETTLED change -/

/-- A share's part of the paid figures: its total and tip when paid with CASH, CARD or VOUCHER (R155). -/
def Share.figures (x : Share) : Nat × Nat :=
  match x.pay with
  | .paid .writeOff _ _ _ _ _ => (0, 0)
  | .paid _ _ tip _ _ _ => (x.total, tip)
  | _ => (0, 0)

/-- The paid figures of a tab's shares (R155). -/
def figuresOf (shares : List Share) : Nat × Nat :=
  ((shares.map fun x => x.figures.1).sum, (shares.map fun x => x.figures.2).sum)

/-- The tab SETTLED: paid figures written, the settlement record freed (R154, R161). -/
def Tab.settled (t : Tab) (writtenOff : Bool) : Tab :=
  { t with
    state := .settled, settlement := none, writtenOff := writtenOff,
    paidFigures := some (figuresOf (t.settlement.getD [])) }

/-- The automatic send of a PAY-FIRST tab, or its SEND-DEFERRED alert (R90, R91). -/
def State.autoSend (s : State) (n : Nat) (t : Tab) : State :=
  if t.kind = .running then s
  else match s.sendTab n t false false with
  | .full _ _ => s.enterAlert .sendDeferred n
  | .done s1 _ _ => s1

/-- A tab whose shares are all PAID becomes SETTLED (R154). -/
def State.settle (s : State) (n : Nat) (t : Tab) : State :=
  let t1 := t.settled t.writtenOff
  ((s.setTab n t1).autoSend n t1).retireCheck n

/-- An accepted tender carried out (R151). -/
def acceptTender (src tab share : Nat) (kind : TenderKind) (tendered tip change excess : Nat) (t : Tab) (x : Share)
    (s : State) : State × Reply :=
  let due := x.total + tip
  let t1 := t.setShare share { x with pay := .paid kind tendered tip change excess src }
  let s1 := ((s.setTab tab t1).setHold src none).credit src (creditOf kind due tip change excess)
  let unpaid := countShares (t1.settlement.getD []) fun p => !p.isPaid
  let state := if unpaid = 0 then TabState.settled else TabState.settling
  (if unpaid = 0 then s1.settle tab t1 else s1,
    okWith [u8 share, u32 due, u32 change, u32 excess, u8 state.code, u8 unpaid])

/-- TENDER-COMMIT at the settlement unit (R150, R151). -/
def tenderCommit (src tab share kind tendered tip : Nat) (s : State) : State × Reply :=
  match s.tenderChecks tab share (fun _ => []) with
  | .error r => (s, r)
  | .ok (t, x) =>
    match tenderKindOf kind with
    | none => (s, refuse .badValue [])
    | some k =>
      if 99999 < tip ∨ 99999999 < tendered then (s, refuse .badValue [])
      else match x.pay with
      | .unpaid => (s, refuse .lapsed [])
      | .paid pk ptend _ pchange pexcess ptill =>
          (s, refuse .badState [u8 ptill, u8 pk.code, u32 ptend, u32 pchange, u32 pexcess])
      | .held till _ =>
        if till ≠ src then (s, refuse .heldElsewhere [u8 till])
        else match judgeTender k (x.total + tip) tendered with
        | none => (s, refuse .amount [u32 (x.total + tip)])
        | some (change, excess) => acceptTender src tab share k tendered tip change excess t x s

def execTenderCommit (src tab share kind tendered tip : Nat) (s : State) : Outcome :=
  request .tenderCommit src (tenderCommit src tab share kind tendered tip) s

/-! ### Drawers -/

/-- The answer of READ-DRAWER and CLOSE-DRAWER (R158, R191). The byte of the saturated flag is 1 when it is set and 0 when it is
clear: DESIGN CHOICE (log 22). -/
def State.drawerAnswer (s : State) (d : Nat) : Reply :=
  okWith ((s.drawer d).amounts.map u32 ++ [u8 (s.drawer d).saturated.toNat, u32 s.writeOffTotal])

/-- READ-DRAWER at the settlement unit (R158). -/
def readDrawer (d : Nat) (s : State) : State × Reply :=
  if 32 < d then (s, refuse .badValue []) else (s, s.drawerAnswer d)

def execReadDrawer (src drawer : Nat) (s : State) : Outcome := request .readDrawer src (readDrawer drawer) s

/-- CLOSE-DRAWER at the settlement unit (R158). -/
def closeDrawer (d : Nat) (s : State) : State × Reply :=
  if 32 < d then (s, refuse .badValue []) else (s.setDrawer d .zero, s.drawerAnswer d)

def execCloseDrawer (src drawer : Nat) (s : State) : Outcome := request .closeDrawer src (closeDrawer drawer) s

/-! ### WRITE-OFF -/

/-- An UNPAID share written off (R161). -/
def Share.writtenOff (x : Share) : Share :=
  match x.pay with
  | .unpaid => { x with pay := .paid .writeOff 0 0 0 0 0 }
  | _ => x

/-- The checks of R159 on a present tab: a refusal, or none. -/
def writeOffRefusal (t : Tab) : Option Reply :=
  match t.state with
  | .settled => some (refuse .badState [])
  | .opened => if activeLines t.lines = [] then some (refuse .badState [u8 0]) else none
  | .settling =>
    match (t.settlement.getD []).filterMap fun x => match x.pay with | .held till _ => some till | _ => none with
    | [] => none
    | till :: rest => some (refuse .heldElsewhere [u8 (rest.length + 1), u8 till])

/-- The amount and the number of shares a write-off writes off (R160, R161). -/
def writeOffAmount (t : Tab) : Nat × Nat :=
  match t.state with
  | .opened => (t.totals.total, 1)
  | _ =>
    let unpaid := (t.settlement.getD []).filter fun x => x.pay == .unpaid
    ((unpaid.map Share.total).sum, unpaid.length)

/-- The ACTIVE UNSENT lines of a tab (R161 step 2). -/
def unsentLines (t : Tab) : List Line := t.lines.filter fun l => !l.voided && l.stage == .unsent

/-- The HELD and WAITING tickets of a tab, in creation order (R99). -/
def State.unstarted (s : State) (n : Nat) : List Nat :=
  (s.tickets.filter fun e => e.2.tab == n && (e.2.state == .held || e.2.state == .waiting)).map Prod.fst

/-- Kills a ticket of a written-off tab and restores its lines' units; the lines keep stage and reference (R99). -/
def State.killAndRestore (s : State) (n : Nat) : State :=
  match s.ticket n with
  | none => s
  | some k => (s.killTicket n).restoreTicket k

/-- The state of a write-off that passed its checks, before the retirement check (R161 steps 1 to 4). -/
def State.writeOffTab (s : State) (n : Nat) (t : Tab) : State :=
  let s1 := { s with writeOffTotal := addCapped s.writeOffTotal (writeOffAmount t).1 }
  let s2 := (unsentLines t).foldl State.restore s1
  let s3 := s2.setTab n ({ t with settlement := t.settlement.map (List.map Share.writtenOff) }.settled true)
  (s.unstarted n).foldl State.killAndRestore s3

/-- WRITE-OFF at the settlement unit (R159 to R161). -/
def writeOff (n : Nat) (s : State) : State × Reply :=
  match s.tab n with
  | none => (s, refuse .noTab [])
  | some t =>
    match writeOffRefusal t with
    | some r => (s, r)
    | none =>
      let s1 := s.writeOffTab n t
      (s1.retireCheck n,
        okWith [u16 n, u32 (writeOffAmount t).1, u8 (writeOffAmount t).2, u8 (s.unstarted n).length, u8 (unsentLines t).length,
          u32 s1.writeOffTotal])

def execWriteOff (src tab : Nat) (s : State) : Outcome := request .writeOff src (writeOff tab) s

end Sys2Proof.Machine
end

