-- ==== Sys2Proof/Machine/Requests.lean ====
section
/-! DEFINITION. Machine/Requests.lean: the commands that carry a request in: GOOD-ANSWER on a lane (R175) and the fall and
rise of chip select on the controller link (R182, R183). The request a frame carries is taken within the same command, by the
meaning its own command has. -/

namespace Sys2Proof.Machine

/-- The request a frame carried, taken by the block that owns its record (R175, R183). The part's own events are no requests
and no frame carries one. -/
def takeRequest (i : Instr) (s : State) : Outcome :=
  match i with
  | .openTab src kind label => execOpenTab src kind label s
  | .addLine src tab rev item qty mods => execAddLine src tab rev item qty mods s
  | .voidLine src tab rev index => execVoidLine src tab rev index s
  | .setLabel src tab rev label => execSetLabel src tab rev label s
  | .setService src tab rev rate => execSetService src tab rev rate s
  | .closeEmpty src tab rev => execCloseEmpty src tab rev s
  | .mergeTabs src a ra b rb => execMergeTabs src a ra b rb s
  | .send src tab hold rush => execSend src tab hold rush s
  | .fire src tab => execFire src tab s
  | .split src tab rev n entries => execSplit src tab rev n entries s
  | .assign src tab rev index set => execAssign src tab rev index set s
  | .unsplit src tab rev => execUnsplit src tab rev s
  | .tenderBegin src tab share => execTenderBegin src tab share s
  | .tenderCommit src tab share kind tendered tip => execTenderCommit src tab share kind tendered tip s
  | .tenderCancel src tab share => execTenderCancel src tab share s
  | .quote src item => execQuote src item s
  | .findTab src form start key => execFindTab src form start key s
  | .readTab src tab page => execReadTab src tab page s
  | .bump src ticket => execBump src ticket s
  | .recall src => execRecall src s
  | .markSoldOut src item => execMarkSoldOut src item s
  | .redrawMe src => execRedrawMe src s
  | .loadItem src item kind name price cls route prep restricted low =>
      execLoadItem src item kind name price cls route prep restricted low s
  | .setPrice src item price => execSetPrice src item price s
  | .setStock src item stock => execSetStock src item stock s
  | .loadTax src cls rate => execLoadTax src cls rate s
  | .loadStation src drop depth limit crew fallback prep interval =>
      execLoadStation src drop depth limit crew fallback prep interval s
  | .setConfig src hold settings => execSetConfig src hold settings s
  | .setLaneRole src lane role => execSetLaneRole src lane role s
  | .laneRestart src lane => execLaneRestart src lane s
  | .setPeriod src period => execSetPeriod src period s
  | .endDay src => execEndDay src s
  | .readAlert src => execReadAlert src s
  | .readDrawer src drawer => execReadDrawer src drawer s
  | .closeDrawer src drawer => execCloseDrawer src drawer s
  | .writeOff src tab => execWriteOff src tab s
  | .killTicket src ticket => execKillTicket src ticket s
  | .readConfig src => execReadConfig src s
  | .resetHold _ | .resetRelease _ _ | .settleEnd | .secondsTick => .next s
  | .holdExpiry _ _ | .recallWindowExpiry _ | .overdueRise _ => .next s
  | .poll _ | .answerMiss _ | .goodAnswer _ _ | .chipSelectFall _ | .chipSelectRise _ | .pollEnd _ => .next s

/-- A BAD-FRAME answer to the kind received (R192). -/
def badFrame (kind : Nat) : Result := ⟨kind, refuse .badFrame []⟩

/-- The content of a frame that passed its port's checks: EMPTY carries no request, a frame that is not well-formed gets
BAD-FRAME (R192), any other is handed to its owner (R175). `empty` is what an EMPTY frame does. -/
def takeFrame (src kind : Nat) (payload : List Byte) (empty : State → State) (s : State) : Outcome :=
  if kind = 0 ∧ payload = [] then .next (empty s)
  else match (ReqKind.ofCode kind).bind fun k => decodeRequest src k payload with
  | none => .next (s.place src (badFrame kind))
  | some i => takeRequest i s

/-- GOOD-ANSWER: the characters of an answer, taken whole at its last one (R175). Characters that do not make a good answer
are a miss (R174); characters outside an answer window are ignored (R171). -/
def execGoodAnswer (l : Fin 4) (chars : List LaneChar) (s : State) : Outcome :=
  match s.mode, (s.lane l).phase with
  | .operating, .awaiting w =>
    match readAnswer w (s.lane l).rate.bps chars with
    | none => .next (s.miss l)
    | some (kind, payload) => takeFrame (s.polled l) kind payload id (s.heard l)
  | _, _ => .next s

/-! ### The controller link -/

/-- CHIP-SELECT-FALL, chip select having been high for the microseconds given (R182, R183, R15). -/
def execChipSelectFall (highMicros : Nat) (s : State) : Outcome :=
  match s.transfer with
  | .none =>
    if s.mode = .operating ∧ Config.selectGapMicros ≤ highMicros then
      .next { s with transfer := .active s.answerSlot, answerSlot := none }
    else .next { s with transfer := .ignored }
  | _ => .next s

/-- The kind and payload of a frame shifted in; none where a check of R183 fails. Bytes after the check are filler. -/
def readLinkFrame (bytes : List Byte) : Option (Nat × List Byte) :=
  match bytes with
  | a :: k :: n :: _ =>
    let len := n.toNat
    if a = 0#8 ∧ len ≤ 64 ∧ len + 5 ≤ bytes.length ∧ checkOk (bytes.take (len + 5)) then
      some (k.toNat, (bytes.drop 3).take len)
    else none
  | _ => none

/-- The kind byte received, or 00h when none was (R192). -/
def kindReceived (bytes : List Byte) : Nat := (bytes[1]?.getD 0#8).toNat

/-- CHIP-SELECT-RISE, with the bytes shifted in since the fall (R183). -/
def execChipSelectRise (bytes : List Byte) (s : State) : Outcome :=
  match s.transfer with
  | .none => .next s
  | .ignored => .next { s with transfer := .none }
  | .active _ =>
    let s1 := { s with transfer := .none }
    match readLinkFrame bytes with
    | none => .next (s1.place 0 (badFrame (kindReceived bytes)))
    | some (kind, payload) => takeFrame 0 kind payload (fun st => { st with answerSlot := some .empty }) s1

end Sys2Proof.Machine
end

