-- ==== Sys2Proof/Machine/Time.lean ====
section
/-! DEFINITION. Machine/Time.lean: the seconds tick and what the blocks do with it (R11, R116, R117, R113, R148). The tick is
one command and each expiry or rise it brings is another (spec/95); one not commanded before the next tick is taken at the
start of that tick (log 5). -/

namespace Sys2Proof.Machine

/-! ### Level rises -/

/-- The rise a ticket has at this tick: LIVE, below level 3, its age at least target + level × interval, with the station's
interval as it stands at the tick (R117). The rise keeps the age it was judged at. -/
def State.riseAt (s : State) (n : Nat) : Option DueRise :=
  match s.ticket n with
  | none => none
  | some k =>
    if k.state = .live ∧ k.level < 3 ∧ k.target + k.level * (s.station k.station).interval ≤ k.age then some ⟨n, k.age⟩ else none

/-- A rise that is still to be taken: its ticket is LIVE at the age the tick gave it. One that is not LIVE does not rise
(R117), and one recalled since has begun anew at age 0 and level 0 (R114). The interval plays no part any more (log 5).
DESIGN CHOICE (log 5): the rise is asked whether its ticket is LIVE when the rise is taken, not whether it stayed LIVE since the
tick, so a ticket sent back to WAITING and admitted again, with its age as it was, still takes its rise. -/
def State.stillRises (s : State) (r : DueRise) : Bool :=
  match s.ticket r.ticket with
  | none => false
  | some k => k.state == .live && decide (k.level < 3) && k.age == r.age

/-- One level rise with its alert and, on the screen, its LEVEL (R117). -/
def State.rise (s : State) (n : Nat) : State :=
  match s.ticket n with
  | none => s
  | some k =>
    let s1 := (s.editTicket n fun k => { k with level := k.level + 1 }).enterAlert .overdue k.station
    if (s1.screen k.station).contains n then s1.post k.station [.level n (k.level + 1)] else s1

/-- OVERDUE-RISE: the first ticket in R117's order that still has its rise of this tick to take. A ticket that is now bumped,
killed or WAITING, or was recalled since the tick, has none. DESIGN CHOICE (log 5): what stood before the rise taken, or stands
behind it and does not rise at this moment, is dropped with it, so a ticket that was WAITING then has no rise left when it is
admitted again. -/
def execOverdueRise (ticket : Nat) (s : State) : Outcome :=
  match s.risesDue.filter s.stillRises with
  | [] => .next s
  | r :: rest =>
    if s.mode = .operating ∧ r.ticket = ticket then .next { s.rise r.ticket with risesDue := rest } else .next s

/-- HOLD-EXPIRY of a share whose hold expiry is the clock (R148). -/
def execHoldExpiry (tab share : Nat) (s : State) : Outcome :=
  if s.mode = .operating then .next (s.expireHold tab share) else .next s

/-! ### Recall windows -/

/-- The end of a station's recall window, when its tick has come: the reference is cleared and its ticket's tab checked for
retirement (R113). -/
def State.endWindow (s : State) (d : Nat) : State :=
  match (s.station d).lastBumped with
  | none => s
  | some b =>
    if b.expiry = s.clock then
      let s1 := s.setStation d { s.station d with lastBumped := none }
      match s.referencedTab d with
      | some t => s1.retireCheck t
      | none => s1
    else s

/-- RECALL-WINDOW-EXPIRY of a station (R113). -/
def execRecallWindowExpiry (station : Nat) (s : State) : Outcome :=
  if s.mode = .operating then .next (s.endWindow station) else .next s

/-! ### The tick -/

/-- Every share of every tab, by tab and share number. -/
def State.allShareNumbers (s : State) : List (Nat × Nat) :=
  s.tabs.flatMap fun (e : Nat × Tab) => (List.range' 1 e.2.shareCount).map fun j => (e.1, j)

/-- What the last tick brought and no command has taken yet (log 5). -/
def State.takeOutstanding (s : State) : State :=
  let s1 := s.allShareNumbers.foldl (fun st p => st.expireHold p.1 p.2) s
  let s2 := { ((s1.risesDue.filter s1.stillRises).map DueRise.ticket).foldl State.rise s1 with risesDue := [] }
  allDrops.foldl State.endWindow s2

/-- The age of a LIVE ticket goes up by one and stops at 65,535 (R116). -/
def Ticket.aged (k : Ticket) : Ticket := if k.state = .live then { k with age := min 65535 (k.age + 1) } else k

/-- The rises of this tick: stations ascending, LIVE queue order within one (R117). -/
def State.dueRises (s : State) : List DueRise := (allDrops.flatMap fun d => (s.station d).live).filterMap s.riseAt

/-- The tick itself: the clock and the ages, and the rises it makes due (R11, R116, R117). -/
def State.tick (s : State) : State :=
  let s1 := { s with clock := clockAfter s.clock 1, tickets := s.tickets.map fun (e : Nat × Ticket) => (e.1, e.2.aged) }
  { s1 with risesDue := s1.dueRises }

/-- SECONDS-TICK (R11). The divider runs in operation only (R14 to R16). -/
def execSecondsTick (s : State) : Outcome := if s.mode = .operating then .next s.takeOutstanding.tick else .next s

end Sys2Proof.Machine
end

