-- ==== Sys2Proof/Machine/Dispatch.lean ====
section
/-! DEFINITION. Machine/Dispatch.lean: one arm for each command, in the order of spec/opcode_table.json. -/

namespace Sys2Proof.Machine

def exec (i : Instr) (s : State) : Host.Outcome State Fault Refusal :=
  match i with
  | .resetHold cause => Sys2Proof.Machine.execResetHold cause s
  | .resetRelease cause cfgHigh => Sys2Proof.Machine.execResetRelease cause cfgHigh s
  | .settleEnd => Sys2Proof.Machine.execSettleEnd s
  | .secondsTick => Sys2Proof.Machine.execSecondsTick s
  | .holdExpiry tab share => Sys2Proof.Machine.execHoldExpiry tab share s
  | .recallWindowExpiry station => Sys2Proof.Machine.execRecallWindowExpiry station s
  | .overdueRise ticket => Sys2Proof.Machine.execOverdueRise ticket s
  | .poll lane => Sys2Proof.Machine.execPoll lane s
  | .answerMiss lane => Sys2Proof.Machine.execAnswerMiss lane s
  | .goodAnswer lane chars => Sys2Proof.Machine.execGoodAnswer lane chars s
  | .chipSelectFall highMicros => Sys2Proof.Machine.execChipSelectFall highMicros s
  | .chipSelectRise bytes => Sys2Proof.Machine.execChipSelectRise bytes s
  | .openTab src kind label => Sys2Proof.Machine.execOpenTab src kind label s
  | .addLine src tab rev item qty mods => Sys2Proof.Machine.execAddLine src tab rev item qty mods s
  | .voidLine src tab rev index => Sys2Proof.Machine.execVoidLine src tab rev index s
  | .setLabel src tab rev label => Sys2Proof.Machine.execSetLabel src tab rev label s
  | .setService src tab rev rate => Sys2Proof.Machine.execSetService src tab rev rate s
  | .closeEmpty src tab rev => Sys2Proof.Machine.execCloseEmpty src tab rev s
  | .mergeTabs src tabA revA tabB revB => Sys2Proof.Machine.execMergeTabs src tabA revA tabB revB s
  | .send src tab hold rush => Sys2Proof.Machine.execSend src tab hold rush s
  | .fire src tab => Sys2Proof.Machine.execFire src tab s
  | .split src tab rev n entries => Sys2Proof.Machine.execSplit src tab rev n entries s
  | .assign src tab rev index set => Sys2Proof.Machine.execAssign src tab rev index set s
  | .unsplit src tab rev => Sys2Proof.Machine.execUnsplit src tab rev s
  | .tenderBegin src tab share => Sys2Proof.Machine.execTenderBegin src tab share s
  | .tenderCommit src tab share kind tendered tip => Sys2Proof.Machine.execTenderCommit src tab share kind tendered tip s
  | .tenderCancel src tab share => Sys2Proof.Machine.execTenderCancel src tab share s
  | .quote src item => Sys2Proof.Machine.execQuote src item s
  | .findTab src form startAfter key => Sys2Proof.Machine.execFindTab src form startAfter key s
  | .readTab src tab page => Sys2Proof.Machine.execReadTab src tab page s
  | .bump src ticket => Sys2Proof.Machine.execBump src ticket s
  | .recall src => Sys2Proof.Machine.execRecall src s
  | .markSoldOut src item => Sys2Proof.Machine.execMarkSoldOut src item s
  | .redrawMe src => Sys2Proof.Machine.execRedrawMe src s
  | .loadItem src item kind name price cls route prep restricted low => Sys2Proof.Machine.execLoadItem src item kind name price cls route prep restricted low s
  | .setPrice src item price => Sys2Proof.Machine.execSetPrice src item price s
  | .setStock src item stock => Sys2Proof.Machine.execSetStock src item stock s
  | .loadTax src cls rate => Sys2Proof.Machine.execLoadTax src cls rate s
  | .loadStation src drop depth limit crew fallback prep interval => Sys2Proof.Machine.execLoadStation src drop depth limit crew fallback prep interval s
  | .setConfig src hold settings => Sys2Proof.Machine.execSetConfig src hold settings s
  | .setLaneRole src lane role => Sys2Proof.Machine.execSetLaneRole src lane role s
  | .laneRestart src lane => Sys2Proof.Machine.execLaneRestart src lane s
  | .setPeriod src period => Sys2Proof.Machine.execSetPeriod src period s
  | .endDay src => Sys2Proof.Machine.execEndDay src s
  | .readAlert src => Sys2Proof.Machine.execReadAlert src s
  | .readDrawer src drawer => Sys2Proof.Machine.execReadDrawer src drawer s
  | .closeDrawer src drawer => Sys2Proof.Machine.execCloseDrawer src drawer s
  | .writeOff src tab => Sys2Proof.Machine.execWriteOff src tab s
  | .killTicket src ticket => Sys2Proof.Machine.execKillTicket src ticket s
  | .readConfig src => Sys2Proof.Machine.execReadConfig src s
  | .pollEnd lane => Sys2Proof.Machine.execPollEnd lane s

end Sys2Proof.Machine
end

