-- ==== Sys2Proof/Safety.lean ====
section
/-! DEFINITION. Safety.lean: the terms the statements use: a request admitted to its owner, the answer a sender will read, what
a change leaves alone, and the laws every state of the part keeps. -/

namespace Sys2Proof.Machine

/-! ### Requests -/

/-- The kind of a request command; none for the part's own events. -/
def kindOf (i : Instr) : Option ReqKind := (encodeRequest i).map Prod.fst

/-- The sender exists and may send the kind (R180, R184). -/
def State.mayAsk (s : State) (k : ReqKind) (src : Nat) : Bool :=
  match s.sender src with
  | some who => roleAllows k who
  | none => false

/-- The request reaches the block that owns its record: the part is in operation, the role check and the period gate pass
(R6). -/
def State.admits (s : State) (k : ReqKind) (src : Nat) : Bool :=
  decide (s.mode = .operating) && s.mayAsk k src && gateOpen k s.period

/-- A payload's length is one its kind allows; for FIND-TAB the form byte, the first, decides as well (R192, with the fields of
R191 section 11.3). -/
def kindAllows (k : ReqKind) (p : List Byte) : Bool :=
  match k with
  | .openTab => decide (1 ≤ p.length ∧ p.length ≤ 17)
  | .addLine => [7, 9, 11, 13, 15].contains p.length
  | .setLabel => decide (4 ≤ p.length ∧ p.length ≤ 20)
  | .findTab => if p.head? = some 1#8 then p.length == 4 else decide (3 ≤ p.length ∧ p.length ≤ 19)
  | .split => (List.range 21).any fun entries => p.length == 5 + (5 * entries + 1) / 2
  | .loadItem => p.length == 29
  | .tenderCommit => p.length == 11
  | .setConfig => p.length == 10
  | .loadStation => p.length == 9
  | .mergeTabs => p.length == 8
  | .assign => p.length == 7
  | .setService => p.length == 6
  | .voidLine | .setPrice => p.length == 5
  | .closeEmpty | .unsplit | .setStock => p.length == 4
  | .send | .tenderBegin | .tenderCancel | .readTab | .loadTax => p.length == 3
  | .fire | .quote | .bump | .markSoldOut | .setLaneRole | .writeOff | .killTicket => p.length == 2
  | .laneRestart | .setPeriod | .readDrawer | .closeDrawer => p.length == 1
  | .recall | .redrawMe | .endDay | .readAlert | .readConfig => p.length == 0

/-- A kind byte and payload that make no well-formed frame of a sender's, though its check and length passed: a kind that is no
request and not EMPTY, or a length the kind does not allow (R192). -/
def BadForm (kind : Nat) (p : List Byte) : Prop :=
  (kind ≠ 0 ∨ p ≠ []) ∧ ∀ k, ReqKind.ofCode kind = some k → kindAllows k p = false

/-- The edit requests that name one tab and a revision: kind, tab, revision (R44; MERGE-TABS names two). -/
def editOf : Instr → Option (ReqKind × Nat × Nat)
  | .addLine _ tab rev _ _ _ => some (.addLine, tab, rev)
  | .voidLine _ tab rev _ => some (.voidLine, tab, rev)
  | .setLabel _ tab rev _ => some (.setLabel, tab, rev)
  | .setService _ tab rev _ => some (.setService, tab, rev)
  | .closeEmpty _ tab rev => some (.closeEmpty, tab, rev)
  | .split _ tab rev _ _ => some (.split, tab, rev)
  | .assign _ tab rev _ _ => some (.assign, tab, rev)
  | .unsplit _ tab rev => some (.unsplit, tab, rev)
  | _ => none

/-- The state of a tab, and of its shares, lets an edit of a kind go on (R38, R125). -/
def Tab.TakesEdit (t : Tab) (k : ReqKind) : Prop :=
  match k with
  | .setLabel => t.state ≠ .settled
  | .split => t.state = .opened ∨ (t.state = .settling ∧ ∀ x ∈ t.settlement.getD [], x.pay = .unpaid)
  | .assign | .unsplit => t.state = .settling ∧ ∀ x ∈ t.settlement.getD [], x.pay = .unpaid
  | _ => t.state = .opened

/-- What the BAD-STATE of an edit carries: the state and, where the shares of a plan stand in the way, how many are HELD and how
many PAID (R44, R125). -/
def Tab.stateRefusal (t : Tab) (k : ReqKind) : List Field :=
  if t.state = .settling ∧ k ∈ [ReqKind.split, .assign, .unsplit] then
    [u8 t.state.code, u8 ((t.settlement.getD []).countP fun x => x.pay.isHeld),
      u8 ((t.settlement.getD []).countP fun x => x.pay.isPaid)]
  else [u8 t.state.code]

/-- The result that waits for a sender: in the answer slot, or in a drop's pending-result slot. -/
def State.answerTo (s : State) (src : Nat) : Option Result :=
  if src = 0 then
    match s.answerSlot with
    | some (.result r) => some r
    | _ => none
  else (s.drop src).slot

/-- The command's outcome is the state `v` with this answer to the request placed for its sender. -/
def Answers (i : Instr) (s : State) (src : Nat) (k : ReqKind) (v : State) (r : Reply) : Prop :=
  exec i s = .next (v.place src ⟨k.code, r⟩)

/-! ### What a change leaves alone -/

/-- The fields of State, by name. -/
inductive Part where
  | mode | resetPinLow | supplyNotGood | cfgHigh | period | clock | items | taxRates | tabs | tabCounter | views
  | holdTime | holds | drawers | writeOffTotal | tickets | ticketCounter | fireCount | risesDue | stations | lanes | drops
  | transfer | answerSlot | alerts | alertsFull | freeDraws | pending
  deriving DecidableEq, Repr

/-- Every field but those named is the same in both states. -/
structure SameBut (ps : List Part) (s t : State) : Prop where
  mode : Part.mode ∉ ps → t.mode = s.mode
  resetPinLow : Part.resetPinLow ∉ ps → t.resetPinLow = s.resetPinLow
  supplyNotGood : Part.supplyNotGood ∉ ps → t.supplyNotGood = s.supplyNotGood
  cfgHigh : Part.cfgHigh ∉ ps → t.cfgHigh = s.cfgHigh
  period : Part.period ∉ ps → t.period = s.period
  clock : Part.clock ∉ ps → t.clock = s.clock
  items : Part.items ∉ ps → t.items = s.items
  taxRates : Part.taxRates ∉ ps → t.taxRates = s.taxRates
  tabs : Part.tabs ∉ ps → t.tabs = s.tabs
  tabCounter : Part.tabCounter ∉ ps → t.tabCounter = s.tabCounter
  views : Part.views ∉ ps → t.views = s.views
  holdTime : Part.holdTime ∉ ps → t.holdTime = s.holdTime
  holds : Part.holds ∉ ps → t.holds = s.holds
  drawers : Part.drawers ∉ ps → t.drawers = s.drawers
  writeOffTotal : Part.writeOffTotal ∉ ps → t.writeOffTotal = s.writeOffTotal
  tickets : Part.tickets ∉ ps → t.tickets = s.tickets
  ticketCounter : Part.ticketCounter ∉ ps → t.ticketCounter = s.ticketCounter
  fireCount : Part.fireCount ∉ ps → t.fireCount = s.fireCount
  risesDue : Part.risesDue ∉ ps → t.risesDue = s.risesDue
  stations : Part.stations ∉ ps → t.stations = s.stations
  lanes : Part.lanes ∉ ps → t.lanes = s.lanes
  drops : Part.drops ∉ ps → t.drops = s.drops
  transfer : Part.transfer ∉ ps → t.transfer = s.transfer
  answerSlot : Part.answerSlot ∉ ps → t.answerSlot = s.answerSlot
  alerts : Part.alerts ∉ ps → t.alerts = s.alerts
  alertsFull : Part.alertsFull ∉ ps → t.alertsFull = s.alertsFull
  freeDraws : Part.freeDraws ∉ ps → t.freeDraws = s.freeDraws
  pending : Part.pending ∉ ps → t.pending = s.pending

/-- The fields a send may change (R86). -/
abbrev sendParts : List Part := [.tabs, .tickets, .ticketCounter, .alerts, .alertsFull, .stations, .fireCount, .drops]

/-! ### Retirement, spelled out -/

/-- The conditions of R163 on a tab's record. -/
def State.Retires (s : State) (n : Nat) (t : Tab) : Prop :=
  t.state = .settled ∧
  (∀ e ∈ s.tickets, e.2.tab = n → e.2.state = .bumped ∨ e.2.state = .killed) ∧
  (∀ d b k, isDrop d = true → (s.station d).lastBumped = some b → s.ticket b.ticket = some k → k.tab ≠ n) ∧
  (t.writtenOff = true ∨ ∀ l ∈ t.lines, l.voided = false → l.stage ≠ .unsent)

/-- What the removal of a tab leaves: its slot, its tickets, the views and the last-bumped references that named them are
gone, and nothing else is touched (R57, R164). -/
def State.RemovesTab (s : State) (n : Nat) (u : State) : Prop :=
  SameBut [.tabs, .tickets, .views, .stations] s u ∧
  u.tabs = s.tabs.erase n ∧
  u.tickets = s.tickets.filter (fun e => e.2.tab != n) ∧
  (∀ m w, m ≤ 32 → (u.view m = some w ↔ s.view m = some w ∧ w.tab ≠ n)) ∧
  ∀ d, ((∃ b e, (s.station d).lastBumped = some b ∧ e ∈ s.tickets ∧ e.1 = b.ticket ∧ e.2.tab = n) →
      u.station d = { s.station d with lastBumped := none }) ∧
    ((∀ b e, (s.station d).lastBumped = some b → e ∈ s.tickets → e.1 = b.ticket → e.2.tab ≠ n) → u.station d = s.station d)

/-- What the restart of a lane leaves, whatever role or settings it took: its drops as after cold start, their views released,
its pass begun afresh, and nothing of another lane touched (R170). -/
def RestartsLane (l : Fin 4) (s v : State) : Prop :=
  ((v.lane l).passCount = 0 ∧ (v.lane l).position = 1 ∧ (v.lane l).phase = .ready) ∧
  (∀ m, m ≠ l → v.lane m = s.lane m) ∧
  (∀ d, isDrop d = true → laneOf d = l → v.drop d = .cold ∧ v.view d = none) ∧
  (∀ d, isDrop d = true → laneOf d ≠ l → v.drop d = s.drop d ∧ v.view d = s.view d) ∧ v.view 0 = s.view 0

/-! ### Notices and times -/

/-- Only notice queues differ between a drop's two states. -/
def OnlyNotices (x y : Drop) : Prop := y = { x with notices := y.notices }

/-- The drop `d` with a notice placed in its queue if it is a till; every other drop as it was (R178, R184). -/
def NoticeFor (d : Nat) (n : Notice) (s u : State) : Prop :=
  (s.isTill d = true → u.drop d = { s.drop d with notices := queueNotice (s.drop d).notices n }) ∧
  (s.isTill d = false → u.drop d = s.drop d) ∧ ∀ e, e ≠ d → u.drop e = s.drop e

/-- Every PRESENT till has the notice placed in its queue; every other drop is as it was (R4, R33). -/
def NoticeForPresent (n : Notice) (s u : State) : Prop :=
  ∀ d, ((s.isTill d = true ∧ (s.drop d).present = true) →
      u.drop d = { s.drop d with notices := queueNotice (s.drop d).notices n }) ∧
    (¬(s.isTill d = true ∧ (s.drop d).present = true) → u.drop d = s.drop d)

/-- Nothing of the last tick is still to be taken: no rise, no hold and no recall window that ends at the clock. -/
def State.NothingDue (s : State) : Prop :=
  s.risesDue = [] ∧
  (∀ e ∈ s.tabs, ∀ x ∈ e.2.settlement.getD [], ∀ till, x.pay ≠ .held till s.clock) ∧
  ∀ d b, (s.station d).lastBumped = some b → b.expiry ≠ s.clock

/-- The alert table and its FULL marker after the entries named are handed to it in their order (R187). -/
def State.entered (s : State) (keys : List (AlertKind × Nat)) : List Alert × Bool :=
  let u := keys.foldl (fun st k => st.enterAlert k.1 k.2) s
  (u.alerts, u.alertsFull)

/-- The alerts a reserve enters for an item whose count it left at `c` (R29). -/
def stockKeys (item mark c : Nat) : List (AlertKind × Nat) :=
  (if c ≤ mark then [(.lowStock, item)] else []) ++ if c = 0 then [(.soldOut, item)] else []

/-- Ticket `a` was fired after `b`: fewer ticks before the clock, or of one fired time the later firing (R89; log 13). -/
def FiredAfter (clock : Nat) (a b : Ticket) : Prop :=
  ticksBetween (a.fired.getD clock) clock < ticksBetween (b.fired.getD clock) clock ∨
    (ticksBetween (a.fired.getD clock) clock = ticksBetween (b.fired.getD clock) clock ∧ b.fireSeq ≤ a.fireSeq)

/-- How many units of an item a line stands for (R28). -/
def Line.unitsOf (l : Line) (x : Nat) : Nat := l.qty * (l.item :: l.mods).count x

/-- `q` is the quote of a station: the product over sixteen rounded up, at most 5,999 (R118). -/
def State.IsQuote (s : State) (d q : Nat) : Prop :=
  let st := s.station d
  let product := ((st.live.length + st.waiting.length) / st.crew + 1) * st.p16
  (product ≤ 16 * 5999 → product ≤ 16 * q ∧ 16 * q < product + 16) ∧ (16 * 5999 < product → q = 5999)

/-- The share numbers of a line's set stand between 1 and n, and there is one at least (R124). -/
def SetFits (n : Nat) (set : BitVec 12) : Prop := set ≠ 0 ∧ ∀ j, 1 ≤ j → inSet set j = true → j ≤ n

/-! ### The laws of the part's state -/

/-- No tab stands in PREP or in CLOSED (R9, R10). -/
def State.HoursOk (s : State) : Prop := s.period = .prep ∨ s.period = .closed → s.tabs = []

/-- The numbers of a table rise strictly: no number twice. -/
def Table.Rising {α : Type} (m : Table α) : Prop := (m.map Prod.fst).Pairwise (· < ·)

/-- A tab's lines stand in index order below the next line index, which never passes 65; the tab is SETTLING exactly while it
holds a settlement record, of at most twelve shares (R36, R39, R122, R123). -/
def Tab.Sound (t : Tab) : Prop :=
  (t.lines.map Line.index).Pairwise (· < ·) ∧ (∀ l ∈ t.lines, 1 ≤ l.index ∧ l.index < t.nextIndex) ∧
    (1 ≤ t.nextIndex ∧ t.nextIndex ≤ 65) ∧ (t.state = .settling ↔ t.settlement.isSome = true) ∧ t.shareCount ≤ 12

/-- The tab table: numbers 1 to 9,999, each once, at most 1,024 tabs, the counter in its range, no more than 8,192 line records
and 128 settlement records in use, and every tab sound (R36, R37, R39, R122). -/
def State.TabsOk (s : State) : Prop :=
  s.tabs.Rising ∧ s.tabs.length ≤ Config.tabSlots ∧ (1 ≤ s.tabCounter ∧ s.tabCounter ≤ Config.maxTabNumber) ∧
    s.linesInUse ≤ Config.poolRecords ∧ s.tabs.countP (fun e => e.2.settlement.isSome) ≤ Config.settlementRecords ∧
    ∀ e ∈ s.tabs, (1 ≤ e.1 ∧ e.1 ≤ Config.maxTabNumber) ∧ e.2.Sound

/-- The ticket table: numbers 1 to 65,535, each once, at most 256 tickets, the counter in its range, and a ticket's lines and
age in theirs (R77, R78, R116). -/
def State.TicketsOk (s : State) : Prop :=
  (s.tickets.map Prod.fst).Nodup ∧ s.tickets.length ≤ Config.ticketSlots ∧
    (1 ≤ s.ticketCounter ∧ s.ticketCounter ≤ Config.maxTicketNumber) ∧
    ∀ e ∈ s.tickets, (1 ≤ e.1 ∧ e.1 ≤ Config.maxTicketNumber) ∧ e.2.refs.length ≤ Config.ticketLines ∧ e.2.age ≤ 65535

/-- The hold records and the HELD shares name each other: a till's record is filled with a tab and a share exactly while that
share is HELD by that till (R146, R147). So a till holds one share at the most, and a share is HELD by one till. -/
def State.HoldsOk (s : State) : Prop :=
  (∀ n t j x till e, s.tab n = some t → t.share j = some x → x.pay = .held till e → till ≤ 32) ∧
    ∀ till, till ≤ 32 → ∀ n j,
      s.hold till = some ⟨n, j⟩ ↔ ∃ t x e, s.tab n = some t ∧ t.share j = some x ∧ x.pay = .held till e

/-- The alert table: at most 32 entries, no key twice, the FULL marker never set on an empty table (R187, R189). -/
def State.AlertsOk (s : State) : Prop :=
  s.alerts.length ≤ Config.alertSlots ∧ s.alerts.Pairwise (fun a b => (a.kind, a.subject) ≠ (b.kind, b.subject)) ∧
    (s.alertsFull = true → s.alerts ≠ [])

/-- A drop's queues hold no more than their places (R166). -/
def Drop.queuesFit (x : Drop) : Bool := decide (x.notices.length ≤ Config.noticeSlots) && decide (x.messages.length ≤ Config.messageSlots)

/-- A drop is ABSENT exactly while its miss count is 3, the highest (R166, R176). -/
def Drop.presenceOk (x : Drop) : Bool := decide (x.misses ≤ 3) && (x.present == decide (x.misses < 3))

/-- Every drop keeps its queues within their places and its presence in step with its misses. -/
def State.DropsOk (s : State) : Prop := ∀ d, isDrop d = true → (s.drop d).queuesFit = true ∧ (s.drop d).presenceOk = true

/-- A station's settings and prep estimate stand in their ranges (R102). -/
def Station.inRange (x : Station) : Bool :=
  decide (1 ≤ x.depth ∧ x.depth ≤ 8) && decide (1 ≤ x.limit ∧ x.limit ≤ 32) && decide (1 ≤ x.crew ∧ x.crew ≤ 8) &&
    decide (dropCode x.fallback ≤ 32) && decide (30 ≤ x.defaultPrep ∧ x.defaultPrep ≤ 1800) &&
    decide (60 ≤ x.interval ∧ x.interval ≤ 600) && decide (x.p16 ≤ 28800)

/-- A station's LIVE queue holds at most its load limit (R92, R93). -/
def Station.liveFits (x : Station) : Bool := decide (x.live.length ≤ x.limit)

/-- Every station keeps its settings in range and its LIVE queue within its load limit. -/
def State.StationsOk (s : State) : Prop := ∀ d, isDrop d = true → (s.station d).inRange = true ∧ (s.station d).liveFits = true

/-- A lane's window, pass count and poll position stand in their ranges (R166). -/
def Lane.inRange (x : Lane) : Bool :=
  decide (2 ≤ x.window ∧ x.window ≤ 20) && decide (x.passCount ≤ 15) && decide (1 ≤ x.position ∧ x.position ≤ 8)

/-- The settings and counts with a range of their own: the clock, the hold time, the tax rates, the lanes (R11, R26, R145,
R166). -/
def State.SettingsOk (s : State) : Prop :=
  s.clock < Config.clockModulus ∧ (10 ≤ s.holdTime ∧ s.holdTime ≤ 300) ∧ (∀ c, s.taxRate c ≤ Config.maxRate) ∧
    ∀ l, (s.lane l).inRange = true

/-- No drawer field and no write-off total passes 999,999,999 (R156, R161). -/
def State.MoneyOk (s : State) : Prop :=
  (∀ n, ∀ v ∈ (s.drawer n).amounts, v ≤ Config.moneyCap) ∧ s.writeOffTotal ≤ Config.moneyCap

/-- An item's price, class, prep target, count and low mark stand in their ranges (R18, R27). -/
def Item.inRange (i : Item) : Bool :=
  decide (i.price ≤ 99999) && decide (i.cls ≤ 7) && decide (30 ≤ i.prep ∧ i.prep ≤ 1800) && decide (dropCode i.route ≤ 32) &&
    decide (i.lowMark ≤ Config.maxStock) && decide (i.stock.getD 0 ≤ Config.maxStock)

/-- Every defined item stands in its ranges: a tracked count stays within 0 to 9,999 (R27). -/
def State.MenuOk (s : State) : Prop := ∀ x i, s.item x = some i → i.inRange = true

end Sys2Proof.Machine
end

