-- ==== Sys2Proof/Certificates/Slice0/Obligations.lean ====
section
/-! DEFINITION. Certificates/Slice0/Obligations.lean: the statements for the provers. Where a statement says `Answers i s src k
v r`, the command's outcome is the state `v` with the answer `r` placed for its sender, and `v` differs from `s` as said. -/

open Sys2Proof Sys2Proof.Machine

/-! ### Every command -/

/-- A step runs the command that has waited longest on the state with the rest of the queue; with none waiting the part idles
(the model's own way of taking commands, log 6). -/
def Obligations.StepRunsFrontCommand : Prop :=
  (∀ (c : Instr) (rest : List Instr) (s : State), s.pending = c :: rest → step s = exec c { s with pending := rest }) ∧
  ∀ s : State, s.pending = [] → step s = .next s

/-- Every command answers a next state and leaves the sender's queue alone (log 2: no command of the part stops it). -/
def Obligations.EveryCommandCompletes : Prop :=
  ∀ (c : Instr) (s : State), ∃ t, exec c s = .next t ∧ t.pending = s.pending

/-- R6, R7, R180, R184: a request its sender may not send is answered ROLE, one the period does not allow PERIOD, and neither
changes anything but the place of its answer. A source above 32 is no sender, which no rule speaks of: the model answers it ROLE
and places the answer nowhere (log 2). -/
def Obligations.TurnedAwayRequestChangesNothing : Prop :=
  ∀ (i : Instr) (k : ReqKind) (src : Nat) (s : State), kindOf i = some k → sourceOf i = some src → s.mode = .operating →
    (s.mayAsk k src = false → Answers i s src k s (refuse .role [])) ∧
    (s.mayAsk k src = true → gateOpen k s.period = false → Answers i s src k s (refuse .period []))

/-- R14, R15: while the reset is held and through the settle, only the reset's own events and chip select are seen; no other
command changes anything, the lanes are silent in receive and the ALERT line is low. -/
def Obligations.SilentOutsideOperation : Prop :=
  ∀ (i : Instr) (s : State), s.mode ≠ .operating →
    (∀ c, i ≠ .resetHold c) → (∀ c b, i ≠ .resetRelease c b) → i ≠ .settleEnd →
    (∀ us, i ≠ .chipSelectFall us) → (∀ bs, i ≠ .chipSelectRise bs) →
    exec i s = .next s ∧ s.alertPin = false ∧ ∀ l, s.dirPin l = false ∧ s.laneFrames l = []

/-! ### Frames -/

/-- R191, R192: the payload of every request that a sender can spell is one its kind allows, and reads back as that request. -/
def Obligations.RequestFramesRoundTrip : Prop :=
  ∀ (i : Instr) (src : Nat) (k : ReqKind) (p : List Byte), WellFormed i = true → sourceOf i = some src →
    encodeRequest i = some (k, p) → p.length ≤ 64 ∧ ReqKind.ofCode k.code = some k ∧ decodeRequest src k p = some i

/-- R183: the frame of a request of the concourse controller's, with any filler after its check, is taken at the rise of chip
select as that request.
That the request is taken within the command that delivers its frame is the model's reading (log 8). -/
def Obligations.LinkFrameRunsItsRequest : Prop :=
  ∀ (i : Instr) (k : ReqKind) (p filler : List Byte) (out : Option LinkAnswer) (s : State), WellFormed i = true →
    sourceOf i = some 0 → encodeRequest i = some (k, p) → s.transfer = .active out →
    exec (.chipSelectRise (frameBytes 0 k.code p ++ filler)) s = exec i { s with transfer := .none }

/-- R174, R175, R192: a good answer that carries a request of the drop polled makes the drop heard and then runs that request on its
behalf; one whose kind is no request, or whose payload has a length the kind does not allow, makes the drop heard and leaves
BAD-FRAME with the kind received in its slot.
That the request is taken within the command that delivers its frame is the model's reading (log 8); a time equal to a limit counts as
inside it (log 11). -/
def Obligations.LaneFrameRunsItsRequest : Prop :=
  ∀ (l : Fin 4) (a : LaneChar) (rest : List LaneChar) (w : Nat) (s : State),
    s.mode = .operating → (s.lane l).phase = .awaiting w → a.mark = true → a.stopHigh = true → a.delayNs ≤ w * 1000000 →
    (∀ c ∈ rest, c.mark = false ∧ c.stopHigh = true ∧ c.delayNs * (s.lane l).rate.bps ≤ 22 * 1000000000) →
    (∀ (i : Instr) (k : ReqKind) (p : List Byte), WellFormed i = true → sourceOf i = some (s.polled l) →
      encodeRequest i = some (k, p) → (a :: rest).map LaneChar.data = frameBytes 0 k.code p →
      exec (.goodAnswer l (a :: rest)) s = exec i (s.heard l)) ∧
    ∀ (kind : Nat) (p : List Byte), kind < 256 → p.length ≤ 64 → BadForm kind p →
      (a :: rest).map LaneChar.data = frameBytes 0 kind p →
      exec (.goodAnswer l (a :: rest)) s = .next ((s.heard l).place (s.polled l) ⟨kind, refuse .badFrame []⟩)

/-- R174, R176: an answer with no character, a bad first character, a bad later character, a length above 64, or a check that
does not match is a miss.
A time equal to a limit counts as inside it (log 11). -/
def Obligations.BadAnswerIsAMiss : Prop :=
  ∀ (l : Fin 4) (cs : List LaneChar) (w : Nat) (s : State), s.mode = .operating → (s.lane l).phase = .awaiting w →
    (cs = [] ∨
      (∃ a rest, cs = a :: rest ∧ (a.mark = false ∨ a.data ≠ 0 ∨ a.stopHigh = false ∨ w * 1000000 < a.delayNs)) ∨
      (∃ a k n rest, cs = a :: k :: n :: rest ∧ 64 < n.data.toNat) ∨
      (∃ a k n rest, cs = a :: k :: n :: rest ∧ ∃ c ∈ (k :: n :: rest).take (n.data.toNat + 4),
        c.mark = true ∨ c.stopHigh = false ∨ 22 * 1000000000 < c.delayNs * (s.lane l).rate.bps) ∨
      (∃ a k n body c1 c2, cs = a :: k :: n :: (body ++ [c1, c2]) ∧ body.length = n.data.toNat ∧
        [c1.data, c2.data] ≠ be 2 (check ((a :: k :: n :: body).map LaneChar.data)).toNat)) →
    exec (.goodAnswer l cs) s = exec (.answerMiss l) s

/-! ### The lanes -/

/-- R172, R173: a lane that is ready and stands at a drop it polls begins that poll, carrying the pending result, else the
oldest notice of a till or message of a station, else nothing; the item leaves its place and nothing else moves. The lane
transmits the item's frames, each with the mark on its first character alone (R171). At the end of the poll the answer window
opens (R171, R174). -/
def Obligations.PollCarriesOneItem : Prop :=
  ∀ (l : Fin 4) (s : State), s.mode = .operating → (s.lane l).phase = .ready →
    (1 ≤ (s.lane l).position ∧ (s.lane l).position ≤ 8) →
    ((s.lane l).passCount = 0 ∨ (s.drop (s.polled l)).present = true) →
    ∃ t item, exec (.poll l) s = .next t ∧ SameBut [.drops, .lanes] s t ∧
      t.lane l = { s.lane l with phase := .sending item (s.lane l).window } ∧ (∀ m, m ≠ l → t.lane m = s.lane m) ∧
      (t.dirPin l = true ∧ t.laneFrames l ≠ [] ∧
        (t.laneFrames l).map (List.map SentChar.data) = item.frames (s.lane l).position ∧
        ∀ f ∈ t.laneFrames l, ∃ first rest, f = first :: rest ∧ first.mark = true ∧
          first.data = BitVec.ofNat 8 (s.lane l).position ∧ ∀ c ∈ rest, c.mark = false) ∧
      (∀ d, d ≠ s.polled l → t.drop d = s.drop d) ∧
      (match (s.drop (s.polled l)).slot, (s.lane l).role, (s.drop (s.polled l)).notices, (s.drop (s.polled l)).messages with
        | some r, _, _, _ => item = .result r ∧ t.drop (s.polled l) = { s.drop (s.polled l) with slot := none }
        | none, .till, n :: rest, _ => item = .notice n ∧ t.drop (s.polled l) = { s.drop (s.polled l) with notices := rest }
        | none, .kitchen, _, m :: rest => item = .message m ∧ t.drop (s.polled l) = { s.drop (s.polled l) with messages := rest }
        | none, .till, [], _ => item = .empty ∧ t.drop (s.polled l) = s.drop (s.polled l)
        | none, .kitchen, _, [] => item = .empty ∧ t.drop (s.polled l) = s.drop (s.polled l)) ∧
      ∃ u, exec (.pollEnd l) t = .next u ∧ SameBut [.lanes] t u ∧
        u.lane l = { s.lane l with phase := .awaiting (s.lane l).window } ∧ ∀ m, m ≠ l → u.lane m = t.lane m

/-- R172: a poll goes to the first drop from the lane's position that is PRESENT or met in a pass of count 0: every drop passed
over, in this pass and in the passes that follow it, is ABSENT. -/
def Obligations.PassSkipsAbsentDrops : Prop :=
  ∀ (l : Fin 4) (s t : State), s.mode = .operating → (s.lane l).phase = .ready → (s.lane l).inRange = true →
    exec (.poll l) s = .next t →
    (1 ≤ (t.lane l).position ∧ (t.lane l).position ≤ 8) ∧
    ((t.lane l).passCount = 0 ∨ (s.drop (t.polled l)).present = true) ∧
    ((t.lane l).passCount = (s.lane l).passCount → (s.lane l).position ≤ (t.lane l).position ∧
      ((s.lane l).passCount = 0 → (t.lane l).position = (s.lane l).position) ∧
      ((s.lane l).passCount ≠ 0 → ∀ a, (s.lane l).position ≤ a → a < (t.lane l).position → (s.drop (dropAt l a)).present = false)) ∧
    ((t.lane l).passCount ≠ (s.lane l).passCount →
      (∀ a, (s.lane l).position ≤ a → a ≤ 8 → (s.drop (dropAt l a)).present = false) ∧
      ((t.lane l).passCount = 0 → (t.lane l).position = 1) ∧
      (∀ a, 1 ≤ a → a < (t.lane l).position → (s.drop (dropAt l a)).present = false) ∧
      ((t.lane l).passCount ≠ ((s.lane l).passCount + 1) % 16 → ∀ a, 1 ≤ a → a ≤ 8 → (s.drop (dropAt l a)).present = false))

/-- R176, R172: a miss raises the miss count to at most 3, makes a PRESENT drop ABSENT with its alert at the third, touches
nothing else of the drop, and moves the lane on. -/
def Obligations.MissCountsAndAbsents : Prop :=
  ∀ (l : Fin 4) (w : Nat) (s : State), s.mode = .operating → (s.lane l).phase = .awaiting w →
    (1 ≤ (s.lane l).position ∧ (s.lane l).position ≤ 8) → (s.drop (s.polled l)).presenceOk = true →
    ∃ t, exec (.answerMiss l) s = .next t ∧ SameBut [.drops, .lanes, .alerts, .alertsFull] s t ∧
      t.drop (s.polled l) =
        { s.drop (s.polled l) with
          misses := min 3 ((s.drop (s.polled l)).misses + 1), present := decide ((s.drop (s.polled l)).misses < 2) } ∧
      (∀ d, d ≠ s.polled l → t.drop d = s.drop d) ∧
      (t.alerts, t.alertsFull) =
        (if (s.drop (s.polled l)).misses = 2 then
          ((s.enterAlert .dropAbsent (s.polled l)).alerts, (s.enterAlert .dropAbsent (s.polled l)).alertsFull)
        else (s.alerts, s.alertsFull)) ∧
      (∀ m, m ≠ l → t.lane m = s.lane m) ∧
      t.lane l =
        (if (s.lane l).position = 8 then { s.lane l with position := 1, passCount := ((s.lane l).passCount + 1) % 16, phase := .ready }
        else { s.lane l with position := (s.lane l).position + 1, phase := .ready })

/-- R175, R121, R172: a good answer of kind EMPTY zeroes the miss count and makes the drop PRESENT; a station that returns has its
queue replaced by a redraw; the lane moves on to the next address, from 8 to the next pass; nothing else of the part moves.
A time equal to a limit counts as inside it (log 11). -/
def Obligations.EmptyAnswerMakesPresent : Prop :=
  ∀ (l : Fin 4) (a : LaneChar) (rest : List LaneChar) (w : Nat) (s : State), s.mode = .operating →
    (s.lane l).phase = .awaiting w → (1 ≤ (s.lane l).position ∧ (s.lane l).position ≤ 8) →
    (a :: rest).map LaneChar.data = frameBytes 0 0 [] → a.mark = true → a.stopHigh = true → a.delayNs ≤ w * 1000000 →
    (∀ c ∈ rest, c.mark = false ∧ c.stopHigh = true ∧ c.delayNs * (s.lane l).rate.bps ≤ 22 * 1000000000) →
    ∃ t, exec (.goodAnswer l (a :: rest)) s = .next t ∧ SameBut [.drops, .lanes] s t ∧
      t.drop (s.polled l) =
        { s.drop (s.polled l) with
          misses := 0, present := true,
          messages := if (s.drop (s.polled l)).present = false ∧ (s.lane l).role = .kitchen then s.redrawMsgs (s.polled l)
            else (s.drop (s.polled l)).messages } ∧
      (∀ d, d ≠ s.polled l → t.drop d = s.drop d) ∧ (∀ m, m ≠ l → t.lane m = s.lane m) ∧
      t.lane l =
        (if (s.lane l).position = 8 then { s.lane l with position := 1, passCount := ((s.lane l).passCount + 1) % 16, phase := .ready }
        else { s.lane l with position := (s.lane l).position + 1, phase := .ready })

/-! ### The controller link -/

/-- R182, R183, R15, R192: at its fall chip select takes the answer slot's frame to shift out, then all ones, and empties the
slot, when the part is in operation and chip select was high for 10 µs or more; any other transfer is ignored whole and leaves
the slot. At its rise the transfer ends: an EMPTY frame leaves an EMPTY frame in the slot; a transfer of fewer than five bytes,
of another address, of a length above 64 or cut short, one whose check does not match, and a frame of unknown kind or of a
length its kind does not allow leave BAD-FRAME with the kind received. -/
def Obligations.ChipSelectMovesFrames : Prop :=
  (∀ (us n : Nat) (s : State), s.transfer = .none →
    (s.mode = .operating → 10 ≤ us →
      exec (.chipSelectFall us) s = .next { s with transfer := .active s.answerSlot, answerSlot := none } ∧
      ∀ a, s.answerSlot = some a →
        State.linkOut { s with transfer := .active s.answerSlot, answerSlot := none } n =
          (a.bytes ++ List.replicate n 0xFF#8).take n) ∧
    (s.mode ≠ .operating ∨ us < 10 →
      exec (.chipSelectFall us) s = .next { s with transfer := .ignored } ∧
      State.linkOut { s with transfer := .ignored } n = List.replicate n 0xFF#8)) ∧
  ∀ (bytes filler : List Byte) (out : Option LinkAnswer) (s : State),
    (s.transfer = .active out →
      exec (.chipSelectRise (frameBytes 0 0 [] ++ filler)) s =
        .next { s with transfer := .none, answerSlot := some .empty }) ∧
    (s.transfer = .active out →
      (bytes.length < 5 ∨ bytes[0]? ≠ some 0#8 ∨ ∃ n, bytes[2]? = some n ∧ (64 < n.toNat ∨ bytes.length < n.toNat + 5)) →
      exec (.chipSelectRise bytes) s =
        .next { s with
          transfer := .none, answerSlot := some (.result ⟨(bytes[1]?.getD 0#8).toNat, refuse .badFrame []⟩) }) ∧
    (∀ (k n c1 c2 : Byte) (body : List Byte), s.transfer = .active out → body.length = n.toNat →
      [c1, c2] ≠ be 2 (check (0#8 :: k :: n :: body)).toNat →
      exec (.chipSelectRise (0#8 :: k :: n :: (body ++ c1 :: c2 :: filler))) s =
        .next { s with transfer := .none, answerSlot := some (.result ⟨k.toNat, refuse .badFrame []⟩) }) ∧
    (∀ (kind : Nat) (p : List Byte), s.transfer = .active out → kind < 256 → p.length ≤ 64 → BadForm kind p →
      exec (.chipSelectRise (frameBytes 0 kind p ++ filler)) s =
        .next { s with transfer := .none, answerSlot := some (.result ⟨kind, refuse .badFrame []⟩) }) ∧
    (s.transfer = .ignored → exec (.chipSelectRise bytes) s = .next { s with transfer := .none })

/-! ### Reset and time -/

/-- R14 to R17: either condition holds the reset at once and every record is lost; the reset is released when neither holds
it, with the CFG strap sampled; at the end of the settle the part is in operation with its cold start values.
That the records are lost at the hold, not at the settle's end, is the model's reading (log 18). -/
def Obligations.ResetSequence : Prop :=
  (∀ (c : ResetCause) (s : State), ∃ t, exec (.resetHold c) s = .next t ∧ t.mode = .held ∧
    t.resetPinLow = (s.resetPinLow || decide (c = .pinLow)) ∧ t.supplyNotGood = (s.supplyNotGood || decide (c = .supplyNotGood)) ∧
    SameBut [.mode, .resetPinLow, .supplyNotGood, .transfer, .pending] (State.cold s.cfgHigh) t ∧
    ∀ n, t.linkOut n = if s.transfer = .none then [] else List.replicate n 0xFF#8) ∧
  (∀ (cfg : Bool) (s : State), s.mode = .held →
    (s.supplyNotGood = false →
      exec (.resetRelease .pinLow cfg) s = .next { s with resetPinLow := false, mode := .settling, cfgHigh := cfg }) ∧
    (s.resetPinLow = false →
      exec (.resetRelease .supplyNotGood cfg) s = .next { s with supplyNotGood := false, mode := .settling, cfgHigh := cfg }) ∧
    (s.supplyNotGood = true → exec (.resetRelease .pinLow cfg) s = .next { s with resetPinLow := false }) ∧
    (s.resetPinLow = true → exec (.resetRelease .supplyNotGood cfg) s = .next { s with supplyNotGood := false })) ∧
  ∀ s : State, s.mode = .settling → ∃ t, exec .settleEnd s = .next t ∧
    SameBut [.resetPinLow, .supplyNotGood, .transfer, .pending] (State.cold s.cfgHigh) t ∧
    (t.mode = .operating ∧ t.period = .prep ∧ t.clock = 0 ∧ t.tabs = [] ∧ t.tickets = [] ∧ t.items = [] ∧ t.alerts = [] ∧
      t.answerSlot = some .empty ∧ t.holdTime = 90) ∧
    (∀ l, (t.lane l).role = if l = 3 ∨ (l = 2 ∧ s.cfgHigh = false) then .kitchen else .till) ∧
    ∀ d, (t.drop d).present = false ∧ (t.drop d).misses = 3

/-- R11, R116, R117: a tick with nothing left over from the tick before advances the clock modulo 2^32 and the age of every
LIVE ticket, makes due the rise of each LIVE ticket that has reached its next threshold, by station and within one in the order
of its LIVE queue, and moves nothing else.
That the tick's expiries and rises are commands of their own, and the list of rises due, are the model's choice (log 5). -/
def Obligations.TickAdvancesClockAndAges : Prop :=
  ∀ s : State, s.mode = .operating → s.NothingDue →
    ∃ due : List DueRise, exec .secondsTick s =
        .next { s with
          clock := (s.clock + 1) % 4294967296
          tickets := s.tickets.map fun e =>
            (e.1, if e.2.state = .live then { e.2 with age := min 65535 (e.2.age + 1) } else e.2)
          risesDue := due } ∧
      (due.map DueRise.ticket).Sublist ((List.range' 1 32).flatMap fun d => (s.station d).live) ∧
      ∀ r, r ∈ due ↔ ∃ d k, isDrop d = true ∧ r.ticket ∈ (s.station d).live ∧ s.ticket r.ticket = some k ∧ k.state = .live ∧
        k.level < 3 ∧ k.target + k.level * (s.station k.station).interval ≤ min 65535 (k.age + 1) ∧ r.age = min 65535 (k.age + 1)

/-- R148: a hold whose expiry the clock has reached expires: its share is UNPAID, its till's hold record empty, and a
HOLD-LAPSED notice waits for the till; no revision moves.
That the expiry is a command of its own is the model's choice (log 5). -/
def Obligations.HoldExpiryFreesShare : Prop :=
  ∀ (n j till : Nat) (t : Tab) (x : Share) (s : State), s.mode = .operating → s.tab n = some t → t.share j = some x →
    x.pay = .held till s.clock → till ≤ 32 →
    ∃ u, exec (.holdExpiry n j) s = .next u ∧ SameBut [.tabs, .holds, .drops] s u ∧
      u.tab n = some (t.setShare j { x with pay := .unpaid }) ∧ (∀ m, m ≠ n → u.tab m = s.tab m) ∧
      u.hold till = none ∧ (∀ m, m ≤ 32 → m ≠ till → u.hold m = s.hold m) ∧
      NoticeFor till (.holdLapsed n j) s u

/-- R113, R163, R164: at the end of a recall window the reference is cleared, and the tab of the ticket it named is retired
exactly when the retirement check allows it.
That the expiry is a command of its own is the model's choice (log 5). -/
def Obligations.RecallWindowEndRetires : Prop :=
  ∀ (d : Nat) (b : LastBumped) (k : Ticket) (t : Tab) (s : State), s.mode = .operating →
    (s.station d).lastBumped = some b → b.expiry = s.clock → s.ticket b.ticket = some k → s.tabs.find k.tab = some t →
    let s1 := s.setStation d { s.station d with lastBumped := none }
    (s1.Retires k.tab t → ∃ u, exec (.recallWindowExpiry d) s = .next u ∧ s1.RemovesTab k.tab u) ∧
    (¬s1.Retires k.tab t → exec (.recallWindowExpiry d) s = .next s1)

/-- R117, R106, R107: a rise that a tick made due is taken whatever the station's interval has become since, unless its ticket is not
LIVE when a rise is taken or has begun a new age; the next one raises its ticket's level by one, enters the station's OVERDUE alert, and tells the
station when the ticket is on its screen: by a LEVEL at the back of its queue, or, when that is full, by a redraw.
That the rise is a command of its own, the list of rises due, and that a ticket that left LIVE and came back takes its rise unless
another was taken meanwhile, are the model's choice (log 5). -/
def Obligations.OverdueRiseRaisesLevel : Prop :=
  (∀ (r : DueRise) (s : State), s.stillRises r = true ↔
    ∃ k, s.ticket r.ticket = some k ∧ k.state = .live ∧ k.level < 3 ∧ k.age = r.age) ∧
  ∀ (n age : Nat) (rest : List DueRise) (k : Ticket) (s : State), s.mode = .operating →
    s.risesDue.filter s.stillRises = ⟨n, age⟩ :: rest → s.ticket n = some k →
    ∃ u, exec (.overdueRise n) s = .next u ∧ SameBut [.tickets, .alerts, .alertsFull, .drops, .risesDue] s u ∧
      u.ticket n = some { k with level := k.level + 1 } ∧ (∀ m, m ≠ n → u.ticket m = s.ticket m) ∧ u.risesDue = rest ∧
      (u.alerts, u.alertsFull) = s.entered [(.overdue, k.station)] ∧
      (∀ d, d ≠ k.station → u.drop d = s.drop d) ∧
      (n ∉ s.screen k.station → u.drop k.station = s.drop k.station) ∧
      (n ∈ s.screen k.station → s.isStation k.station = true →
        u.drop k.station =
          { s.drop k.station with
            messages := if (s.drop k.station).messages.length < 16 then
                (s.drop k.station).messages ++ [.level n (k.level + 1)]
              else u.redrawMsgs k.station })

/-! ### The menu table -/

/-- R22, R23: LOAD-ITEM in PREP stores the record with its stock kept and its low mark clamped, clears it for kind UNDEFINED,
and is refused with BAD-VALUE, storing nothing, when a field is out of range; in every other period it is refused. -/
def Obligations.LoadItemStoresRecord : Prop :=
  ∀ (item kind : Nat) (name : List Byte) (price cls route prep restricted low : Nat) (s : State), s.mode = .operating →
    let i : Instr := .loadItem 0 item kind name price cls route prep restricted low
    let text := name.takeWhile (· != 0#8)
    let ok := (1 ≤ item ∧ item ≤ 511) ∧ kind ≤ 2 ∧ (text.length ≤ 16 ∧ ∀ b ∈ text, 0x20 ≤ b.toNat ∧ b.toNat ≤ 0x7E) ∧
      price ≤ 99999 ∧ cls ≤ 7 ∧ route ≤ 32 ∧ (30 ≤ prep ∧ prep ≤ 1800) ∧ restricted ≤ 1
    (s.period ≠ .prep → Answers i s 0 .loadItem s (refuse .period [])) ∧
    (s.period = .prep → ¬ok → Answers i s 0 .loadItem s (refuse .badValue [])) ∧
    (s.period = .prep → ok → kind = 0 →
      ∃ v, Answers i s 0 .loadItem v (okWith [u16 item, u16 0]) ∧ SameBut [.items] s v ∧ v.item item = none ∧
        ∀ x, x ≠ item → v.item x = s.item x) ∧
    (s.period = .prep → ok → kind ≠ 0 →
      ∃ v, Answers i s 0 .loadItem v (okWith [u16 item, u16 (min 9999 low)]) ∧ SameBut [.items] s v ∧
        (v.item item = some
          { kind := if kind = 1 then .plain else .modifier, name := text, price := price, cls := cls,
            route := if route = 0 then none else some route, prep := prep, restricted := decide (restricted = 1),
            stock := (s.item item).bind Item.stock, lowMark := min 9999 low }) ∧
        ∀ x, x ≠ item → v.item x = s.item x)

/-- R24: SET-PRICE in every period: NO-ITEM, BAD-VALUE, or the new price stored and both prices answered; nothing else moves:
no line, no total, no share and no revision. -/
def Obligations.SetPriceChangesPriceAlone : Prop :=
  ∀ (item price : Nat) (s : State), s.mode = .operating →
    (s.item item = none → Answers (.setPrice 0 item price) s 0 .setPrice s (refuse .noItem [])) ∧
    ∀ i, s.item item = some i →
      (99999 < price → Answers (.setPrice 0 item price) s 0 .setPrice s (refuse .badValue [])) ∧
      (price ≤ 99999 →
        ∃ v, Answers (.setPrice 0 item price) s 0 .setPrice v (okWith [u24 i.price, u24 price]) ∧ SameBut [.items] s v ∧
          v.item item = some { i with price := price } ∧ ∀ x, x ≠ item → v.item x = s.item x)

/-- R25: SET-STOCK in every period: NO-ITEM, or the stock field written outright, a count clamped to 9,999, and the field
answered before and after; no alert and no notice. -/
def Obligations.SetStockWritesOutright : Prop :=
  ∀ (item : Nat) (stock : Option Nat) (s : State), s.mode = .operating →
    (s.item item = none → Answers (.setStock 0 item stock) s 0 .setStock s (refuse .noItem [])) ∧
    ∀ i, s.item item = some i →
      ∃ v, Answers (.setStock 0 item stock) s 0 .setStock v
          (okWith [stockData i.stock, stockData (stock.map (min 9999))]) ∧
        SameBut [.items] s v ∧ v.item item = some { i with stock := stock.map (min 9999) } ∧
        ∀ x, x ≠ item → v.item x = s.item x

/-- R26: LOAD-TAX in PREP: a class above 7 is refused; otherwise the rate is stored, clamped to 2,500, and answered. -/
def Obligations.LoadTaxStoresRate : Prop :=
  ∀ (cls rate : Nat) (s : State), s.mode = .operating → s.period = .prep →
    (7 < cls → Answers (.loadTax 0 cls rate) s 0 .loadTax s (refuse .badValue [])) ∧
    (cls ≤ 7 → ∃ v, Answers (.loadTax 0 cls rate) s 0 .loadTax v (okWith [u8 cls, u16 (min 2500 rate)]) ∧
      SameBut [.taxRates] s v ∧ v.taxRate cls = min 2500 rate ∧ ∀ c, c ≤ 7 → c ≠ cls → v.taxRate c = s.taxRate c)

/-- R32, R33: a station's mark makes the item tracked with count 0, enters the SOLD-OUT alert, places a SOLD-OUT notice for
every PRESENT till, and answers the field as it stood; an item that is not there is answered NO-ITEM. -/
def Obligations.MarkSoldOutZeroesCount : Prop :=
  ∀ (src item : Nat) (s : State), s.admits .markSoldOut src = true →
    (s.item item = none → Answers (.markSoldOut src item) s src .markSoldOut s (refuse .noItem [])) ∧
    ∀ i, s.item item = some i →
      ∃ v, Answers (.markSoldOut src item) s src .markSoldOut v (okWith [stockData i.stock]) ∧
        SameBut [.items, .alerts, .alertsFull, .drops] s v ∧ v.item item = some { i with stock := some 0 } ∧
        (∀ x, x ≠ item → v.item x = s.item x) ∧
        (v.alerts, v.alertsFull) = ((s.enterAlert .soldOut item).alerts, (s.enterAlert .soldOut item).alertsFull) ∧
        NoticeForPresent (.soldOut item i.name) s v

/-! ### The tab store -/

/-- R37, R46: OPEN-TAB takes a slot and a number that no tab has: the counter's when it is free; the counter moves one past it;
the tab takes the starting values of R36. -/
def Obligations.OpenTabTakesFreshNumber : Prop :=
  ∀ (src kind : Nat) (label : List Byte) (s : State), s.admits .openTab src = true → kind ≤ 1 →
    (∀ b ∈ label, 0x20 ≤ b.toNat ∧ b.toNat ≤ 0x7E) → s.tabs.length < 1024 → (1 ≤ s.tabCounter ∧ s.tabCounter ≤ 9999) →
    ∃ n v, Answers (.openTab src kind label) s src .openTab v (okWith [u16 n, u16 0]) ∧
      (1 ≤ n ∧ n ≤ 9999) ∧ s.tab n = none ∧ (s.tab s.tabCounter = none → n = s.tabCounter) ∧
      SameBut [.tabs, .tabCounter] s v ∧ v.tabCounter = (if n = 9999 then 1 else n + 1) ∧
      (∀ m, m ≠ n → v.tab m = s.tab m) ∧
      v.tab n = some
        { state := .opened, kind := if kind = 0 then .running else .payFirst, openingTill := src, label := label,
          serviceRate := 0, revision := 0, nextIndex := 1, lines := [], totals := ⟨0, List.replicate 8 0, 0, 0⟩,
          writtenOff := false, settlement := none, paidFigures := none }

/-- R42, R48, R49, R28, R29: an ADD-LINE that passes the checks before the pool's is refused with FULL and enters POOL-LOW when no
line record is free. One that passes every check appends one line with the captured price and class, recomputes the totals,
raises the revision and takes the line's stock; it enters, item by item in line order, LOW-STOCK at or below the low mark and
SOLD-OUT at 0, then POOL-LOW when it leaves fewer than 256 records free; no other tab, no ticket and no money moves, and a
drop's state changes only in its notices. -/
def Obligations.AddLineAppendsLine : Prop :=
  ∀ (src tab rev item qty : Nat) (mods : List Nat) (t : Tab) (it : Item) (s : State), s.admits .addLine src = true →
    s.tab tab = some t → t.state = .opened → t.revision = rev → s.item item = some it → it.kind = .plain →
    (∀ m ∈ mods, ∃ im, s.item m = some im ∧ im.kind = .modifier ∧ (s.period = .lastCall → im.restricted = false)) →
    (s.period = .lastCall → it.restricted = false) → (1 ≤ qty ∧ qty ≤ 99) → t.nextIndex ≤ 64 →
    t.totals.goods + qty * (it.price + (mods.map fun m => ((s.item m).map Item.price).getD 0).sum) ≤ 9999999 →
    (s.freeLines = 0 →
      ∃ v, Answers (.addLine src tab rev item qty mods) s src .addLine v (refuse .full []) ∧ SameBut [.alerts, .alertsFull] s v ∧
        (v.alerts, v.alertsFull) = s.entered [(.poolLow, 0)]) ∧
    (0 < s.freeLines →
      (∀ x ∈ item :: mods, ∀ i c, s.item x = some i → i.stock = some c → qty * (item :: mods).count x ≤ c) →
      let l : Line :=
        { index := t.nextIndex, item := item, qty := qty, mods := mods,
          unitPrice := it.price + (mods.map fun m => ((s.item m).map Item.price).getD 0).sum, cls := it.cls, voided := false,
          stage := if it.route = none then .none else .unsent, ticket := none, shares := 0 }
      let totals := totalsOf s.taxRate t.serviceRate (t.lines ++ [l])
      ∃ v, Answers (.addLine src tab rev item qty mods) s src .addLine v
          (okWith [u16 ((rev + 1) % 65536), u8 t.nextIndex, u32 totals.total]) ∧
        SameBut [.tabs, .items, .alerts, .alertsFull, .drops] s v ∧
        v.tab tab = some
          { t with lines := t.lines ++ [l], nextIndex := t.nextIndex + 1, totals := totals, revision := (rev + 1) % 65536 } ∧
        (∀ n, n ≠ tab → v.tab n = s.tab n) ∧
        (∀ x i, s.item x = some i → v.item x = some { i with stock := i.stock.map (· - qty * (item :: mods).count x) }) ∧
        (s.tabs.Rising → (v.alerts, v.alertsFull) = s.entered
          (((distinct (item :: mods)).flatMap fun x => match s.item x with
            | some i => (i.stock.map fun c => stockKeys x i.lowMark (c - qty * (item :: mods).count x)).getD []
            | none => []) ++ if s.freeLines - 1 < 256 then [(.poolLow, 0)] else [])) ∧
        ∀ d, OnlyNotices (s.drop d) (v.drop d))

/-- R51 to R53, R61: VOID-LINE of an ACTIVE line marks it VOIDED, recomputes the totals, raises the revision, gives its units
back when it was never sent or its ticket is not yet BUMPED or KILLED, and marks it on its ticket, which is KILLED when no line
is left unmarked. -/
def Obligations.VoidLineVoidsAndRestores : Prop :=
  ∀ (src tab rev ix : Nat) (t : Tab) (l : Line) (s : State), s.admits .voidLine src = true → s.tab tab = some t →
    t.state = .opened → t.revision = rev → t.activeLine ix = some l →
    (∀ n k, l.ticket = some n → s.ticket n = some k → k.tab = tab) →
    let lines := t.lines.map fun m => if m.index = ix then { m with voided := true } else m
    let totals := totalsOf s.taxRate t.serviceRate lines
    let back := l.stage = .none ∨ l.stage = .unsent ∨ (l.stage = .sent ∧ ∃ n k, l.ticket = some n ∧ s.ticket n = some k ∧
      (k.state = .held ∨ k.state = .waiting ∨ k.state = .live))
    ∃ v flag, Answers (.voidLine src tab rev ix) s src .voidLine v
        ⟨.ok, flag, [u16 ((rev + 1) % 65536), u32 totals.total]⟩ ∧ flag ≤ 1 ∧ (flag = 1 ↔ back) ∧
      SameBut [.tabs, .items, .tickets, .stations, .drops] s v ∧
      v.tab tab = some { t with lines := lines, totals := totals, revision := (rev + 1) % 65536 } ∧
      (∀ n, n ≠ tab → v.tab n = s.tab n) ∧
      (¬back → v.items = s.items) ∧
      (back → ∀ x i, s.item x = some i → v.item x = some
        { i with stock := if (l.item :: l.mods).count x = 0 then i.stock
          else i.stock.map fun c => min 9999 (c + l.qty * (l.item :: l.mods).count x) }) ∧
      ∀ n k, l.ticket = some n → s.ticket n = some k → ∃ k', v.ticket n = some k' ∧
        k'.refs = k.refs.map (fun r => if r.index = ix then { r with voided := true } else r) ∧
        k'.state = if (∀ r ∈ k'.refs, r.voided = true) then .killed else k.state

/-- R55, R56: SET-LABEL, in OPEN or SETTLING, and SET-SERVICE, in OPEN, change the label, and the clamped rate with the totals,
and raise the revision; nothing else moves. R44, R126: before its own checks every edit of one tab is answered NO-TAB when the tab
is not there, BAD-STATE when its state does not let the edit go on, STALE with the tab's revision when the edit names another,
in that order, and nothing changes. -/
def Obligations.LabelAndServiceEdits : Prop :=
  (∀ (i : Instr) (k : ReqKind) (src tab rev : Nat) (s : State), editOf i = some (k, tab, rev) → sourceOf i = some src →
    s.admits k src = true →
    (s.tab tab = none → Answers i s src k s (refuse .noTab [])) ∧
    ∀ t, s.tab tab = some t →
      (¬t.TakesEdit k → Answers i s src k s (refuse .badState (t.stateRefusal k))) ∧
      (t.TakesEdit k → t.revision ≠ rev → Answers i s src k s (refuse .stale [u16 t.revision]))) ∧
  ∀ (src tab rev : Nat) (t : Tab) (s : State), s.tab tab = some t → t.revision = rev →
    (∀ label : List Byte, s.admits .setLabel src = true → t.state ≠ .settled → (∀ b ∈ label, 0x20 ≤ b.toNat ∧ b.toNat ≤ 0x7E) →
      ∃ v, Answers (.setLabel src tab rev label) s src .setLabel v (okWith [u16 ((rev + 1) % 65536)]) ∧ SameBut [.tabs] s v ∧
        v.tab tab = some { t with label := label, revision := (rev + 1) % 65536 } ∧ ∀ n, n ≠ tab → v.tab n = s.tab n) ∧
    ∀ rate : Nat, s.admits .setService src = true → t.state = .opened →
      let totals := totalsOf s.taxRate (min 2500 rate) t.lines
      ∃ v, Answers (.setService src tab rev rate) s src .setService v
          (okWith [u16 ((rev + 1) % 65536), u16 (min 2500 rate), u32 totals.total]) ∧ SameBut [.tabs] s v ∧
        v.tab tab = some { t with serviceRate := min 2500 rate, totals := totals, revision := (rev + 1) % 65536 } ∧
        ∀ n, n ≠ tab → v.tab n = s.tab n

/-- R57: CLOSE-EMPTY of an OPEN tab with no ACTIVE line removes it with all that belongs to it; with an ACTIVE line it is
refused with the count and nothing changes. -/
def Obligations.CloseEmptyRemovesTab : Prop :=
  ∀ (src tab rev : Nat) (t : Tab) (s : State), s.admits .closeEmpty src = true → s.tab tab = some t → t.state = .opened →
    t.revision = rev →
    ((∀ l ∈ t.lines, l.voided = true) →
      ∃ v, Answers (.closeEmpty src tab rev) s src .closeEmpty v (okWith [u16 ((rev + 1) % 65536)]) ∧ s.RemovesTab tab v) ∧
    ((∃ l ∈ t.lines, l.voided = false) →
      Answers (.closeEmpty src tab rev) s src .closeEmpty s (refuse .badState [u8 (t.lines.countP fun l => !l.voided)]))

/-- R58 to R60: a merge that passes its checks and moves a line puts A's ACTIVE lines at the end of B with the indices that
follow, moves A's tickets that name one to B, frees the others, and removes A.
What becomes of a reference to a line not moved is the model's reading (log 14). -/
def Obligations.MergeMovesLinesAndTickets : Prop :=
  ∀ (src tabA revA tabB revB : Nat) (a b : Tab) (s : State), s.admits .mergeTabs src = true → tabA ≠ tabB →
    s.tab tabA = some a → s.tab tabB = some b → a.state = .opened → b.state = .opened → a.revision = revA → b.revision = revB →
    let moved := a.lines.filter fun l => !l.voided
    moved ≠ [] → b.nextIndex + moved.length ≤ 65 → b.totals.goods + a.totals.goods ≤ 9999999 → s.TicketsOk →
    let lines := b.lines ++ moved.mapIdx fun i l => { l with index := b.nextIndex + i }
    let totals := totalsOf s.taxRate b.serviceRate lines
    ∃ v, Answers (.mergeTabs src tabA revA tabB revB) s src .mergeTabs v
        (okWith [u16 ((revB + 1) % 65536), u32 totals.total, u8 moved.length, u8 b.nextIndex, u16 ((revA + 1) % 65536)]) ∧
      SameBut [.tabs, .tickets, .views, .stations] s v ∧ v.tab tabA = none ∧
      v.tab tabB = some
        { b with
          lines := lines, nextIndex := b.nextIndex + moved.length, totals := totals, revision := (revB + 1) % 65536,
          label := if b.label = [] then a.label else b.label } ∧
      (∀ n, n ≠ tabA → n ≠ tabB → v.tab n = s.tab n) ∧
      (∀ n k, s.ticket n = some k → k.tab ≠ tabA → v.ticket n = some k) ∧
      (∀ n k, s.ticket n = some k → k.tab = tabA → (∀ r ∈ k.refs, r.index ∉ moved.map Line.index) → v.ticket n = none) ∧
      (∀ n k, s.ticket n = some k → k.tab = tabA → (∃ r ∈ k.refs, r.index ∈ moved.map Line.index) →
        v.ticket n = some
          { k with
            tab := tabB
            refs := k.refs.map fun r =>
              if r.index ∈ moved.map Line.index then { r with index := b.nextIndex + (moved.map Line.index).idxOf r.index }
              else ⟨0, true⟩ })

/-- R63, R64: FIND-TAB lists the matching tabs above the start-after number, at most eight and, in a table in number order, in
ascending order, with MORE when a further one matches, and changes nothing. -/
def Obligations.FindTabListsMatches : Prop :=
  ∀ (src form start : Nat) (key : List Byte) (s : State), s.admits .findTab src = true → start ≤ 9999 →
    (form = 0 ∧ (1 ≤ key.length ∧ key.length ≤ 16) ∧ (∀ b ∈ key, 0x20 ≤ b.toNat ∧ b.toNat ≤ 0x7E)) ∨
      (form = 1 ∧ unbe key ≤ 32) →
    ∃ hits : Table Tab,
      (∀ e, e ∈ hits ↔ e ∈ s.tabs ∧ start < e.1 ∧
        if form = 0 then e.2.label ≠ [] ∧ key <+: e.2.label else e.2.openingTill = unbe key) ∧
      (s.tabs.Rising → hits.Rising) ∧
      Answers (.findTab src form start key) s src .findTab s
        ⟨.ok, if 8 < hits.length then 4 else 0, (hits.take 8).flatMap fun e => [u16 e.1, u8 e.2.state.code]⟩

/-- R71 to R74: READ-TAB of a page that exists serves it with the flag the requester's view gives; page 0 takes the view, a
page above 0 renews a view of another revision, the last page releases a view that names the tab; nothing else changes. -/
def Obligations.ReadTabFollowsView : Prop :=
  ∀ (src tab page : Nat) (t : Tab) (s : State), s.admits .readTab src = true → src ≤ 32 → s.tab tab = some t →
    (t.hasPage page = false →
      Answers (.readTab src tab page) s src .readTab s (refuse .noPage [u16 t.revision, u8 t.lines.length, u8 t.shareCount])) ∧
    (t.hasPage page = true → ∃ v flag last,
      Answers (.readTab src tab page) s src .readTab v ⟨.ok, flag + 4 * last, u16 t.revision :: t.page tab page⟩ ∧
      SameBut [.views] s v ∧ (∀ m, m ≤ 32 → m ≠ src → v.view m = s.view m) ∧
      last ≤ 1 ∧ (last = 1 ↔ ∀ q, page < q → t.hasPage q = false) ∧
      ((page = 0 ∨ s.view src = some ⟨tab, t.revision⟩) → flag = 0 ∧ v.view src = if last = 1 then none else some ⟨tab, t.revision⟩) ∧
      (page ≠ 0 → ∀ r, r ≠ t.revision → s.view src = some ⟨tab, r⟩ →
        flag = 1 ∧ v.view src = if last = 1 then none else some ⟨tab, t.revision⟩) ∧
      (page ≠ 0 → (∀ r, s.view src ≠ some ⟨tab, r⟩) → flag = 2 ∧ v.view src = s.view src))

/-! ### The kitchen router -/

/-- R80 to R86: the lines of one destination take a ticket for each sixteen of them. A SEND that needs more tickets than there are
free slots is refused with FULL, with both counts, and nothing changes; any other completes: each ACTIVE UNSENT line is SENT on
a ticket of its destination, or NONE when its route is lost; no other line, and no revision, changes. A SETTLED tab then has
its retirement check. -/
def Obligations.SendStagesEveryUnsentLine : Prop :=
  ∀ (src tab : Nat) (hold rush : Bool) (t : Tab) (s : State), s.admits .send src = true → s.tab tab = some t →
    t.writtenOff = false → (t.kind = .running ∨ t.state = .settled) → s.TicketsOk → t.Sound →
    let gathered := t.lines.filter fun l => !l.voided && l.stage == .unsent
    let dest := fun l : Line => s.resolve ((s.item l.item).bind Item.route)
    let places := (gathered.map dest).filter (· != .lost)
    let needed := (places.dedup.map fun d => (places.count d + 15) / 16).sum
    gathered ≠ [] →
    (256 - s.tickets.length < needed →
      Answers (.send src tab hold rush) s src .send s (refuse .full [u8 needed, u8 (256 - s.tickets.length)])) ∧
    (s.tickets.length + needed ≤ 256 →
      ∃ (u : State) (quote : Nat) (ref : Nat → Nat),
        Answers (.send src tab hold rush) s src .send (if t.state = .settled then u.retireCheck tab else u)
          (okWith [u8 needed, u8 (gathered.countP fun l => dest l == .lost), u16 quote]) ∧
        SameBut sendParts s u ∧ u.tickets.length = s.tickets.length + needed ∧
        u.tab tab = some
          { t with lines := t.lines.map fun l =>
              if l.voided = true ∨ l.stage ≠ .unsent then l
              else if dest l = .lost then { l with stage := .none }
              else { l with stage := .sent, ticket := some (ref l.index) } } ∧
        (∀ n, n ≠ tab → u.tab n = s.tab n) ∧
        ∀ l ∈ gathered, dest l ≠ .lost → s.ticket (ref l.index) = none ∧ ∃ k, u.ticket (ref l.index) = some k ∧ k.tab = tab ∧
          dest l = .to k.station k.original ∧ ⟨l.index, false⟩ ∈ k.refs ∧ k.refs.length ≤ 16 ∧ k.rush = rush ∧
          (if hold then k.state = .held ∧ k.fired = none else (k.state = .waiting ∨ k.state = .live) ∧ k.fired = some s.clock))

/-- R88, R89: FIRE fires every HELD ticket of the tab, whatever the tab's state, with the clock as its fired time, and answers
how many; tabs, money and alerts stay as they are. -/
def Obligations.FireReleasesHeldTickets : Prop :=
  ∀ (src tab : Nat) (t : Tab) (s : State), s.admits .fire src = true → s.tab tab = some t → s.TicketsOk →
    ∃ v quote, Answers (.fire src tab) s src .fire v
        (okWith [u8 (s.tickets.countP fun e => e.2.tab == tab && e.2.state == .held), u16 quote]) ∧
      SameBut [.stations, .tickets, .fireCount, .drops] s v ∧
      (∀ n k, s.ticket n = some k → k.tab = tab → k.state = .held → ∃ k', v.ticket n = some k' ∧ k'.fired = some s.clock ∧
        (k'.state = .waiting ∨ k'.state = .live) ∧ k'.station = k.station ∧ k'.refs = k.refs ∧ k'.tab = tab) ∧
      ((∀ e ∈ s.tickets, e.2.tab = tab → e.2.state ≠ .held) → v = s ∧ quote = 0)

/-- R97, R96: KILL-TICKET of a HELD, WAITING or LIVE ticket kills it, restores the units of its unmarked lines and puts them
back to UNSENT without a ticket, then runs the retirement check of its tab.
That the check follows the lines' return is the model's reading (log 15). -/
def Obligations.KillTicketReturnsLines : Prop :=
  ∀ (n : Nat) (k : Ticket) (s : State), s.admits .killTicket 0 = true → s.ticket n = some k →
    (k.state = .held ∨ k.state = .waiting ∨ k.state = .live) →
    ∃ u, Answers (.killTicket 0 n) s 0 .killTicket (u.retireCheck k.tab)
        (okWith [u16 n, u16 k.tab, u8 (s.ticketLines k).length]) ∧
      SameBut [.tabs, .items, .tickets, .stations, .drops] s u ∧ u.items = (s.restoreTicket k).items ∧
      (∀ t, s.tabs.find k.tab = some t → u.tabs.find k.tab = some
        { t with lines := t.lines.map fun l =>
            if (∃ r ∈ k.refs, r.index = l.index ∧ r.voided = false) then { l with stage := .unsent, ticket := none } else l }) ∧
      (∀ m, m ≠ k.tab → u.tabs.find m = s.tabs.find m) ∧
      (∃ k', u.ticket n = some k' ∧ k'.state = .killed ∧ k'.refs = k.refs ∧ k'.age = k.age ∧ k'.level = k.level) ∧
      (isDrop k.station = true → n ∉ (u.station k.station).live ∧ n ∉ (u.station k.station).waiting)

/-! ### Stations at work -/

/-- R109 to R111, R113: a BUMP of a ticket on the screen makes it BUMPED and its unmarked lines READY, takes the sample into
P16, sets the reference with its window of 60 s, tells the tab's opening till, and then runs the retirement checks of the tab
of the reference replaced and of its own. A ticket that is not on the screen is NOT-SHOWN and nothing changes. -/
def Obligations.BumpFinishesTicket : Prop :=
  (∀ (src n : Nat) (s : State), s.admits .bump src = true → n ∉ s.screen src →
    Answers (.bump src n) s src .bump s (refuse .notShown [])) ∧
  ∀ (src n : Nat) (k : Ticket) (t : Tab) (s : State), s.admits .bump src = true → n ∈ s.screen src → s.ticket n = some k →
    s.tab k.tab = some t →
    let sample := min 1800 ((s.clock + 4294967296 - k.firstShown.getD s.clock) % 4294967296)
    ∃ u, Answers (.bump src n) s src .bump
        ((match (s.station src).lastBumped.bind (fun b => s.ticket b.ticket) with
          | some old => u.retireCheck old.tab
          | none => u).retireCheck k.tab)
        (okWith [u16 n, u16 k.tab, u8 (s.ticketLines k).length, u16 sample]) ∧
      SameBut [.tabs, .tickets, .stations, .drops] s u ∧
      (∃ k', u.ticket n = some k' ∧ k'.state = .bumped ∧ k'.age = k.age ∧ k'.level = k.level ∧ k'.refs = k.refs) ∧
      u.tab k.tab = some
        { t with lines := t.lines.map fun l =>
            if (∃ r ∈ k.refs, r.index = l.index ∧ r.voided = false) then { l with stage := .ready } else l } ∧
      (∀ m, m ≠ k.tab → u.tab m = s.tab m) ∧
      (u.station src).p16 = (7 * (s.station src).p16 + 16 * sample + 4) / 8 ∧
      (u.station src).lastBumped = some ⟨n, (s.clock + 60) % 4294967296⟩ ∧
      (n ∉ (u.station src).live) ∧ (∀ d, d ≠ src → u.station d = s.station d) ∧
      (∀ d, d ≠ src → d ≠ t.openingTill → u.drop d = s.drop d) ∧
      (s.isTill t.openingTill = true → u.drop t.openingTill =
        { s.drop t.openingTill with notices := queueNotice (s.drop t.openingTill).notices (.ready k.tab n src) })

/-- R114: RECALL brings the last bumped ticket back to the front of LIVE with age and level 0 and a new first-on-screen time,
its unmarked lines to SENT, clears the reference, tells the opening till, and makes room at the load limit by sending the last
LIVE ticket to the front of WAITING; without a reference it is NO-RECALL. -/
def Obligations.RecallReturnsTicket : Prop :=
  ∀ (src : Nat) (s : State), s.admits .recall src = true →
    ((s.station src).lastBumped = none → Answers (.recall src) s src .recall s (refuse .noRecall [])) ∧
    ∀ (b : LastBumped) (k : Ticket) (t : Tab), (s.station src).lastBumped = some b → s.ticket b.ticket = some k →
      s.tab k.tab = some t → (s.station src).inRange = true → b.ticket ∉ (s.station src).live → (s.station src).live.Nodup →
      (s.station src).live.length ≤ (s.station src).limit →
      ∃ v, Answers (.recall src) s src .recall v (okWith [u16 b.ticket, u16 k.tab]) ∧
        SameBut [.tabs, .tickets, .stations, .drops] s v ∧
        (v.ticket b.ticket = some
          { k with state := .live, front := true, age := 0, level := 0, firstShown := some s.clock }) ∧
        v.tab k.tab = some
          { t with lines := t.lines.map fun l =>
              if (∃ r ∈ k.refs, r.index = l.index ∧ r.voided = false) then { l with stage := .sent } else l } ∧
        (∀ m, m ≠ k.tab → v.tab m = s.tab m) ∧ (∀ d, d ≠ src → v.station d = s.station d) ∧
        ((s.station src).live.length < (s.station src).limit →
          v.station src = { s.station src with lastBumped := none, live := b.ticket :: (s.station src).live }) ∧
        (∀ front last, (s.station src).live = front ++ [last] → (s.station src).live.length = (s.station src).limit →
          v.station src =
            { s.station src with
              lastBumped := none, live := b.ticket :: front, waiting := last :: (s.station src).waiting }) ∧
        (s.isTill t.openingTill = true → v.drop t.openingTill =
          { s.drop t.openingTill with notices := queueNotice (s.drop t.openingTill).notices (.recalled k.tab b.ticket src) })

/-- R107, R108: REDRAW-ME replaces the station's queue with a REDRAW and the SHOW and LEVEL of each ticket on its screen, as far
as sixteen places go, answers how many tickets stand there, and changes nothing else. -/
def Obligations.RedrawMeRefillsQueue : Prop :=
  ∀ (src : Nat) (s : State), s.admits .redrawMe src = true →
    ∃ v, Answers (.redrawMe src) s src .redrawMe v (okWith [u8 (s.screen src).length]) ∧ SameBut [.drops] s v ∧
      (∀ d, d ≠ src → v.drop d = s.drop d) ∧
      v.drop src =
        { s.drop src with
          messages := (.redraw :: (s.screen src).flatMap fun n =>
            match s.ticket n with
            | none => []
            | some k => s.showOf n k :: if k.level = 0 then [] else [.level n k.level]).take 16 }

/-- R103 to R105: LOAD-STATION stores the six settings clamped, resets P16 when the default prep changes, and answers them; at
an unchanged limit the lists stand; a raised limit admits tickets from the front of WAITING while there is room; a lowered limit
cuts LIVE to it and puts the tickets cut in front of WAITING, front-placed, the newest fired first. A drop that
is no station is refused. -/
def Obligations.LoadStationStoresSettings : Prop :=
  ∀ (d depth limit crew fallback prep interval : Nat) (s : State), s.mode = .operating →
    let i : Instr := .loadStation 0 d depth limit crew fallback prep interval
    let old := s.station d
    let limit' := max 1 (min 32 limit)
    (s.isStation d = false → Answers i s 0 .loadStation s (refuse .badValue [])) ∧
    (s.isStation d = true → ∃ v, Answers i s 0 .loadStation v
        (okWith [u8 (v.station d).depth, u8 (v.station d).limit, u8 (v.station d).crew, u8 (dropCode (v.station d).fallback),
          u16 (v.station d).defaultPrep, u16 (v.station d).interval, u16 (v.station d).p16]) ∧
      SameBut [.tickets, .stations, .drops] s v ∧ (∀ e, e ≠ d → v.station e = s.station e ∧ v.drop e = s.drop e) ∧
      (v.station d).depth = max 1 (min 8 depth) ∧ (v.station d).limit = limit' ∧ (v.station d).crew = max 1 (min 8 crew) ∧
      (v.station d).fallback = (if fallback = 0 then none else some (min 32 fallback)) ∧
      (v.station d).defaultPrep = max 30 (min 1800 prep) ∧ (v.station d).interval = max 60 (min 600 interval) ∧
      (v.station d).p16 = (if max 30 (min 1800 prep) = old.defaultPrep then old.p16 else 16 * max 30 (min 1800 prep)) ∧
      (v.station d).lastBumped = old.lastBumped ∧
      (limit' = old.limit → (v.station d).live = old.live ∧ (v.station d).waiting = old.waiting) ∧
      (old.limit < limit' → (∀ n ∈ old.waiting, s.ticket n ≠ none) →
        let room := min old.waiting.length (limit' - old.live.length)
        (v.station d).waiting = old.waiting.drop room ∧ (v.station d).live.Perm (old.live ++ old.waiting.take room) ∧
          old.live.Sublist (v.station d).live ∧
          ∀ n ∈ old.waiting.take room, ∃ k, v.ticket n = some k ∧ k.state = .live ∧ k.front = false) ∧
      (limit' < old.limit → old.live.Nodup → (v.station d).live = old.live.take limit' ∧
        ∃ cut, cut.Perm (old.live.drop limit') ∧ (v.station d).waiting = cut ++ old.waiting ∧
          (∀ n ∈ cut, ∀ k, s.ticket n = some k → v.ticket n = some { k with state := .waiting, front := true }) ∧
          ((∀ n ∈ old.live, s.ticket n ≠ none) →
            cut.Pairwise fun a b => ∀ ka kb, s.ticket a = some ka → s.ticket b = some kb → FiredAfter s.clock ka kb)))

/-- R118, R119: QUOTE answers the station the item's route resolves to with that station's quote, 0 for none, and NO-ITEM for
an item that is not there or is a MODIFIER; it changes nothing. -/
def Obligations.QuoteFollowsRoute : Prop :=
  ∀ (src item : Nat) (s : State), s.admits .quote src = true →
    ((∀ i, s.item item = some i → i.kind = .modifier) → Answers (.quote src item) s src .quote s (refuse .noItem [])) ∧
    ∀ i, s.item item = some i → i.kind = .plain →
      ((i.route = none ∨ ∃ d, i.route = some d ∧ s.isStation d = false) →
        Answers (.quote src item) s src .quote s (okWith [u8 0, u16 0])) ∧
      ∀ d, i.route = some d → s.isStation d = true →
        ∃ q, Answers (.quote src item) s src .quote s
            (okWith [u8 (match (s.station d).fallback with
              | some f => if (s.drop d).present = false ∧ s.isStation f = true ∧ (s.drop f).present = true then f else d
              | none => d), u16 q]) ∧
          s.IsQuote (match (s.station d).fallback with
              | some f => if (s.drop d).present = false ∧ s.isStation f = true ∧ (s.drop f).present = true then f else d
              | none => d) q

/-! ### The settlement unit: plans -/

/-- R127 to R131: a SPLIT that passes its checks, of an OPEN tab with a record free or of a SETTLING tab with every share UNPAID,
gives each ACTIVE line its entry's set or the set of all shares and leaves the tab SETTLING with n UNPAID shares as computed;
an ASSIGN replaces one line's set and computes every share afresh. The kept totals stay, the revision goes up by one, and no
other tab moves. -/
def Obligations.SplitAndAssignMakePlan : Prop :=
  ∀ (src tab rev : Nat) (t : Tab) (s : State), s.tab tab = some t → t.revision = rev →
    (∀ (n : Nat) (entries : List SplitEntry), s.admits .split src = true →
      ((t.state = .opened ∧ 0 < s.freeSettlements) ∨ (t.state = .settling ∧ ∀ x ∈ t.settlement.getD [], x.pay = .unpaid)) →
      (1 ≤ n ∧ n ≤ 12) → (∃ l ∈ t.lines, l.voided = false) →
      (∀ e ∈ entries, (∃ l ∈ t.lines, l.index = e.index ∧ l.voided = false) ∧ SetFits n e.set) →
      (entries.map SplitEntry.index).Nodup →
      let lines := t.lines.map fun l => if l.voided = true then l else
        { l with shares := match entries.find? fun e => e.index == l.index with | some e => e.set | none => allShares n }
      let shares := splitShares s.taxRate t.serviceRate (totalsOf s.taxRate t.serviceRate lines) n lines
      ∃ v, Answers (.split src tab rev n entries) s src .split v
          (okWith ([u16 ((rev + 1) % 65536), u8 n, u32 t.totals.total] ++ shares.map fun x => u32 x.total)) ∧
        SameBut [.tabs] s v ∧ shares.length = n ∧ (∀ x ∈ shares, x.pay = .unpaid) ∧
        v.tab tab = some
          { t with state := .settling, settlement := some shares, lines := lines, revision := (rev + 1) % 65536 } ∧
        ∀ m, m ≠ tab → v.tab m = s.tab m) ∧
    ∀ (ix : Nat) (set : BitVec 12), s.admits .assign src = true → t.state = .settling →
      (∀ x ∈ t.settlement.getD [], x.pay = .unpaid) → (∃ l ∈ t.lines, l.index = ix ∧ l.voided = false) →
      SetFits t.shareCount set →
      let lines := t.lines.map fun l => if l.index = ix then { l with shares := set } else l
      let shares := splitShares s.taxRate t.serviceRate (totalsOf s.taxRate t.serviceRate lines) t.shareCount lines
      ∃ v, Answers (.assign src tab rev ix set) s src .assign v
          (okWith ([u16 ((rev + 1) % 65536), u8 t.shareCount, u32 t.totals.total] ++ shares.map fun x => u32 x.total)) ∧
        SameBut [.tabs] s v ∧ shares.length = t.shareCount ∧ (∀ x ∈ shares, x.pay = .unpaid) ∧
        v.tab tab = some
          { t with state := .settling, settlement := some shares, lines := lines, revision := (rev + 1) % 65536 } ∧
        ∀ m, m ≠ tab → v.tab m = s.tab m

/-- R125, R132: an UNSPLIT of a SETTLING tab with every share UNPAID takes the sets and the settlement record away and leaves the
tab OPEN with its totals; with a share HELD or PAID it is refused with the counts and nothing changes. -/
def Obligations.UnsplitReturnsToOpen : Prop :=
  ∀ (src tab rev : Nat) (t : Tab) (shares : List Share) (s : State), s.admits .unsplit src = true → s.tab tab = some t →
    t.revision = rev → t.state = .settling → t.settlement = some shares →
    ((∀ x ∈ shares, x.pay = .unpaid) →
      ∃ v, Answers (.unsplit src tab rev) s src .unsplit v (okWith [u16 ((rev + 1) % 65536), u32 t.totals.total]) ∧
        SameBut [.tabs] s v ∧
        v.tab tab = some
          { t with
            state := .opened, settlement := none, revision := (rev + 1) % 65536,
            lines := t.lines.map fun l => if l.voided = true then l else { l with shares := 0 } } ∧
        ∀ m, m ≠ tab → v.tab m = s.tab m) ∧
    ((∃ x ∈ shares, x.pay ≠ .unpaid) →
      Answers (.unsplit src tab rev) s src .unsplit s
        (refuse .badState [u8 1, u8 (shares.countP fun x => x.pay.isHeld), u8 (shares.countP fun x => x.pay.isPaid)]))

/-- R138 to R141: whatever the lines, their sets, the rates and the service charge, the n shares' goods sum to the tab's goods,
their taxes to the tab's tax of each class, their services to its service, and so their totals to the tab total. -/
def Obligations.SharesAddUpToTab : Prop :=
  ∀ (rate : Nat → Nat) (service n : Nat) (lines : List Line), (1 ≤ n ∧ n ≤ 12) →
    (∀ l ∈ lines, l.voided = false → SetFits n l.shares) →
    let totals := totalsOf rate service lines
    let shares := splitShares rate service totals n lines
    shares.length = n ∧ (shares.map Share.goods).sum = totals.goods ∧
    (∀ c, c < 8 → (shares.map fun x => x.taxes.getD c 0).sum = totals.taxes.getD c 0) ∧
    (shares.map Share.service).sum = totals.service ∧ (shares.map Share.total).sum = totals.total

/-- R139, R140: an amount rounded half-up from the bases together is divided whole: each share has its floor or one unit more,
less than one unit from its exact part, none more where nothing was dropped, and a unit never goes past a larger remainder
or, among equals, a lower number. -/
def Obligations.LeftoverGoesToLargestRemainders : Prop :=
  ∀ (rate : Nat) (bases : List Nat),
    let amount := (bases.sum * rate + 5000) / 10000
    let out := largestRemainder amount rate bases
    let floor := fun i => bases.getD i 0 * rate / 10000
    let rem := fun i => bases.getD i 0 * rate % 10000
    out.length = bases.length ∧ out.sum = amount ∧
    (∀ i, i < bases.length → out.getD i 0 = floor i ∨ (out.getD i 0 = floor i + 1 ∧ 0 < rem i)) ∧
    ∀ i j, i < bases.length → j < bases.length → out.getD j 0 = floor j + 1 → (rem j < rem i ∨ (rem j = rem i ∧ i < j)) →
      out.getD i 0 = floor i + 1

/-! ### The settlement unit: payment -/

/-- R147: TENDER-BEGIN on a share of a SETTLING tab: an UNPAID share is held when the till holds none, a share the till holds is
re-armed, and every other case is refused and changes nothing; the expiry is the clock plus the hold time. -/
def Obligations.TenderBeginHoldsShare : Prop :=
  ∀ (src tab j : Nat) (t : Tab) (x : Share) (s : State), s.admits .tenderBegin src = true → src ≤ 32 → s.tab tab = some t →
    t.state = .settling → t.share j = some x →
    let expiry := (s.clock + s.holdTime) % 4294967296
    (x.pay = .unpaid → s.hold src = none →
      ∃ v, Answers (.tenderBegin src tab j) s src .tenderBegin v ⟨.ok, 0, [u32 x.total, u32 expiry]⟩ ∧
        SameBut [.tabs, .holds] s v ∧ v.tab tab = some (t.setShare j { x with pay := .held src expiry }) ∧
        (∀ m, m ≠ tab → v.tab m = s.tab m) ∧ v.hold src = some ⟨tab, j⟩ ∧ ∀ m, m ≤ 32 → m ≠ src → v.hold m = s.hold m) ∧
    (∀ h, x.pay = .unpaid → s.hold src = some h →
      Answers (.tenderBegin src tab j) s src .tenderBegin s (refuse .badState [u16 h.tab, u8 h.share])) ∧
    (∀ e, x.pay = .held src e →
      ∃ v, Answers (.tenderBegin src tab j) s src .tenderBegin v ⟨.ok, 1, [u32 x.total, u32 expiry]⟩ ∧ SameBut [.tabs] s v ∧
        v.tab tab = some (t.setShare j { x with pay := .held src expiry }) ∧ ∀ m, m ≠ tab → v.tab m = s.tab m) ∧
    (∀ till e, x.pay = .held till e → till ≠ src →
      Answers (.tenderBegin src tab j) s src .tenderBegin s (refuse .heldElsewhere [u8 till])) ∧
    ∀ kind a b c d till, x.pay = .paid kind a b c d till →
      Answers (.tenderBegin src tab j) s src .tenderBegin s (refuse .badState [u8 till, u8 kind.code])

/-- R150, R151, R154, R157: a commit from the holding till that fits its kind pays the share, empties the hold record and credits
the till's drawer, each field stopping at 999,999,999, where the saturated flag is set and DRAWER-SATURATED entered; while a share
is not PAID the tab stays SETTLING; with the last one it becomes SETTLED with its paid figures, a PAY-FIRST tab is sent, and the
retirement check runs. A tender that does not fit is refused with the amount due,
and a commit on an UNPAID share is LAPSED; neither changes anything. -/
def Obligations.TenderCommitPaysShare : Prop :=
  ∀ (src tab j tendered tip : Nat) (kind : TenderKind) (t : Tab) (x : Share) (s : State), s.admits .tenderCommit src = true →
    src ≤ 32 → s.tab tab = some t → t.state = .settling → t.share j = some x → kind ≠ .writeOff → tip ≤ 99999 →
    tendered ≤ 99999999 →
    let i : Instr := .tenderCommit src tab j kind.code tendered tip
    let due := x.total + tip
    let fits := if kind = .card then tendered = due else due ≤ tendered
    let change := if kind = .cash then tendered - due else 0
    let excess := if kind = .voucher then tendered - due else 0
    let add := fun a b => min 999999999 (a + b)
    let old := s.drawer src
    let counts := if kind = .cash then (old.cashCount, old.cashAmount) else if kind = .card then (old.cardCount, old.cardAmount)
      else (old.voucherCount, old.voucherAmount)
    let saturating := [counts.1 + 1, counts.2 + due, old.excess + excess, old.tips + tip, old.change + change, old.sharesPaid + 1].any
      fun v => decide (999999999 < v)
    (x.pay = .unpaid → Answers i s src .tenderCommit s (refuse .lapsed [])) ∧
    (∀ e, x.pay = .held src e → ¬fits → Answers i s src .tenderCommit s (refuse .amount [u32 due])) ∧
    ∀ e, x.pay = .held src e → fits →
      let paid := t.setShare j { x with pay := .paid kind tendered tip change excess src }
      let left := (paid.settlement.getD []).countP fun y => !y.pay.isPaid
      let figures := (paid.settlement.getD []).filter fun y => match y.pay with | .paid k _ _ _ _ _ => k != .writeOff | _ => false
      let settled : Tab :=
        { paid with
          state := .settled, settlement := none,
          paidFigures := some ((figures.map Share.total).sum,
            (figures.map fun y => match y.pay with | .paid _ _ p _ _ _ => p | _ => 0).sum) }
      ∃ u, SameBut [.tabs, .holds, .drawers, .alerts, .alertsFull] s u ∧ u.hold src = none ∧
        (∀ m, m ≤ 32 → m ≠ src → u.hold m = s.hold m ∧ u.drawer m = s.drawer m) ∧
        ((u.drawer src).cashCount = add old.cashCount (if kind = .cash then 1 else 0) ∧
          (u.drawer src).cardCount = add old.cardCount (if kind = .card then 1 else 0) ∧
          (u.drawer src).voucherCount = add old.voucherCount (if kind = .voucher then 1 else 0) ∧
          (u.drawer src).cashAmount = add old.cashAmount (if kind = .cash then due else 0) ∧
          (u.drawer src).cardAmount = add old.cardAmount (if kind = .card then due else 0) ∧
          (u.drawer src).voucherAmount = add old.voucherAmount (if kind = .voucher then due else 0) ∧
          (u.drawer src).excess = add old.excess excess ∧ (u.drawer src).tips = add old.tips tip ∧
          (u.drawer src).change = add old.change change ∧ (u.drawer src).sharesPaid = add old.sharesPaid 1) ∧
        (s.MoneyOk → (u.drawer src).saturated = (old.saturated || saturating) ∧
          (u.alerts, u.alertsFull) = s.entered (if saturating = true then [(.drawerSaturated, src)] else [])) ∧
        (∀ m, m ≠ tab → u.tab m = s.tab m) ∧
        (left ≠ 0 → u.tab tab = some paid ∧
          Answers i s src .tenderCommit u (okWith [u8 j, u32 due, u32 change, u32 excess, u8 1, u8 left])) ∧
        (left = 0 → u.tab tab = some settled ∧
          (t.kind = .running → Answers i s src .tenderCommit (u.retireCheck tab)
            (okWith [u8 j, u32 due, u32 change, u32 excess, u8 2, u8 0])) ∧
          (t.kind = .payFirst → Answers i s src .tenderCommit
            ((match u.sendTab tab settled false false with
              | .done w _ _ => w
              | .full _ _ => u.enterAlert .sendDeferred tab).retireCheck tab)
            (okWith [u8 j, u32 due, u32 change, u32 excess, u8 2, u8 0])))

/-- R153: TENDER-CANCEL by the holding till makes its share UNPAID and empties its hold record, with no notice and no revision;
another till's share is HELD-ELSEWHERE, an UNPAID or PAID one BAD-STATE, and nothing changes. -/
def Obligations.TenderCancelReleasesShare : Prop :=
  ∀ (src tab j : Nat) (t : Tab) (x : Share) (s : State), s.admits .tenderCancel src = true → src ≤ 32 → s.tab tab = some t →
    t.state = .settling → t.share j = some x →
    (∀ e, x.pay = .held src e →
      ∃ v, Answers (.tenderCancel src tab j) s src .tenderCancel v (okWith []) ∧ SameBut [.tabs, .holds] s v ∧
        v.tab tab = some (t.setShare j { x with pay := .unpaid }) ∧ (∀ m, m ≠ tab → v.tab m = s.tab m) ∧
        v.hold src = none ∧ ∀ m, m ≤ 32 → m ≠ src → v.hold m = s.hold m) ∧
    (∀ till e, x.pay = .held till e → till ≠ src →
      Answers (.tenderCancel src tab j) s src .tenderCancel s (refuse .heldElsewhere [u8 till])) ∧
    (x.pay = .unpaid → Answers (.tenderCancel src tab j) s src .tenderCancel s (refuse .badState [])) ∧
    ∀ k a b c d till, x.pay = .paid k a b c d till →
      Answers (.tenderCancel src tab j) s src .tenderCancel s (refuse .badState [u8 till])

/-- R158: READ-DRAWER and CLOSE-DRAWER, in every period: a number above 32 is refused; both answer every field of the drawer as it
stands and the write-off total; the read changes nothing, the close zeroes that one drawer.
That the byte of the saturated flag is 1 or 0 is the model's choice (log 22). -/
def Obligations.DrawerReadAndClose : Prop :=
  ∀ (d : Nat) (s : State), s.mode = .operating →
    let x := s.drawer d
    let answer := okWith
      [u32 x.cashCount, u32 x.cardCount, u32 x.voucherCount, u32 x.cashAmount, u32 x.cardAmount, u32 x.voucherAmount,
        u32 x.excess, u32 x.tips, u32 x.change, u32 x.sharesPaid, u8 (if x.saturated = true then 1 else 0), u32 s.writeOffTotal]
    (32 < d → Answers (.readDrawer 0 d) s 0 .readDrawer s (refuse .badValue []) ∧
      Answers (.closeDrawer 0 d) s 0 .closeDrawer s (refuse .badValue [])) ∧
    (d ≤ 32 → Answers (.readDrawer 0 d) s 0 .readDrawer s answer ∧
      ∃ v, Answers (.closeDrawer 0 d) s 0 .closeDrawer v answer ∧ SameBut [.drawers] s v ∧
        (∀ y ∈ (v.drawer d).amounts, y = 0) ∧ (v.drawer d).saturated = false ∧ ∀ m, m ≤ 32 → m ≠ d → v.drawer m = s.drawer m)

/-- R159 to R161, R99: a WRITE-OFF that passes its checks adds the unpaid totals to the write-off total, settles the tab with its
written-off flag and paid figures, gives the units of its UNSENT lines back, kills its HELD and WAITING tickets and gives the units
of their unmarked lines back, leaves its other tickets in their states, and then
runs the retirement check.
That the check runs once, at the end, is the model's reading (log 15). -/
def Obligations.WriteOffSettlesTab : Prop :=
  ∀ (tab : Nat) (t : Tab) (s : State), s.admits .writeOff 0 = true → s.tab tab = some t →
    ((t.state = .opened ∧ t.settlement = none ∧ ∃ l ∈ t.lines, l.voided = false) ∨
      (t.state = .settling ∧ ∀ x ∈ t.settlement.getD [], x.pay.isHeld = false)) →
    s.TicketsOk →
    let shares := t.settlement.getD []
    let unpaid := shares.filter fun x => x.pay == .unpaid
    let amount := if t.state = .opened then t.totals.total else (unpaid.map Share.total).sum
    let count := if t.state = .opened then 1 else unpaid.length
    let killed := s.tickets.countP fun e => e.2.tab == tab && (e.2.state == .held || e.2.state == .waiting)
    let paid := shares.filter fun x => match x.pay with | .paid k _ _ _ _ _ => k != .writeOff | _ => false
    let unstarted := s.tickets.filter fun e => e.2.tab == tab && (e.2.state == .held || e.2.state == .waiting)
    let back := (t.lines.filter fun l => !l.voided && l.stage == .unsent) ++ unstarted.flatMap fun e =>
      t.lines.filter fun l => e.2.refs.any fun r => r.index == l.index && !r.voided
    ∃ u, Answers (.writeOff 0 tab) s 0 .writeOff (u.retireCheck tab)
        (okWith [u16 tab, u32 amount, u8 count, u8 killed,
          u8 (t.lines.countP fun l => !l.voided && l.stage == .unsent), u32 (min 999999999 (s.writeOffTotal + amount))]) ∧
      SameBut [.tabs, .items, .tickets, .stations, .drops, .writeOffTotal] s u ∧
      u.writeOffTotal = min 999999999 (s.writeOffTotal + amount) ∧
      (s.MenuOk → ∀ x, u.item x = (s.item x).map fun i =>
        { i with stock := i.stock.map fun c => min 9999 (c + (back.map fun l => l.unitsOf x).sum) }) ∧
      u.tab tab = some
        { t with
          state := .settled, settlement := none, writtenOff := true,
          paidFigures := some ((paid.map Share.total).sum,
            (paid.map fun y => match y.pay with | .paid _ _ p _ _ _ => p | _ => 0).sum) } ∧
      (∀ m, m ≠ tab → u.tab m = s.tab m) ∧
      (∀ n k, s.ticket n = some k → k.tab = tab → (k.state = .held ∨ k.state = .waiting) →
        ∃ k', u.ticket n = some k' ∧ k'.state = .killed ∧ k'.refs = k.refs) ∧
      ∀ n k, s.ticket n = some k → ¬(k.tab = tab ∧ (k.state = .held ∨ k.state = .waiting)) →
        ∃ k', u.ticket n = some k' ∧ k'.state = k.state ∧ k'.refs = k.refs

/-! ### The concourse controller's own requests -/

/-- R2 to R5: SET-PERIOD makes the moves of R2's table, CLOSE-OUT to CLOSED only with no tab, and every change gives each PRESENT
till a PERIOD notice; every other move is refused and changes nothing. END-DAY in CLOSED is day clear.
That END-DAY leaves the tables that stand empty in CLOSED as they are is the model's reading (log 21). -/
def Obligations.PeriodMovesAndDayClear : Prop :=
  ∀ s : State, s.mode = .operating →
    (∀ target, 4 < target → Answers (.setPeriod 0 target) s 0 .setPeriod s (refuse .badValue [])) ∧
    (∀ p : Period,
      let move := (s.period, p) ∈ [(Period.prep, Period.service), (.service, .lastCall), (.service, .closeOut),
        (.lastCall, .service), (.lastCall, .closeOut), (.closeOut, .closed)]
      (¬move → Answers (.setPeriod 0 p.code) s 0 .setPeriod s (refuse .badState [])) ∧
      (move → p = .closed → s.tabs ≠ [] → Answers (.setPeriod 0 p.code) s 0 .setPeriod s (refuse .busy [u16 s.tabs.length])) ∧
      (move → (p = .closed → s.tabs = []) →
        ∃ v, Answers (.setPeriod 0 p.code) s 0 .setPeriod v (okWith [u8 p.code, u32 s.clock]) ∧ SameBut [.period, .drops] s v ∧
          v.period = p ∧ NoticeForPresent (.period p s.clock) s v)) ∧
    (s.period ≠ .closed → Answers (.endDay 0) s 0 .endDay s (refuse .period [])) ∧
    (s.period = .closed →
      ∃ v, Answers (.endDay 0) s 0 .endDay v (okWith [u8 0, u32 s.clock]) ∧
        SameBut [.period, .drops, .drawers, .writeOffTotal, .tabCounter, .ticketCounter, .stations, .alerts, .alertsFull] s v ∧
        (v.period = .prep ∧ v.writeOffTotal = 0 ∧ v.tabCounter = 1 ∧ v.ticketCounter = 1 ∧ v.alerts = [] ∧ v.alertsFull = false) ∧
        (∀ n, v.drawer n = .zero) ∧
        (∀ d, isDrop d = true → v.station d = { s.station d with p16 := (s.station d).defaultPrep * 16, lastBumped := none }) ∧
        NoticeForPresent (.period .prep s.clock) s v)

/-- R145, R169, R185: SET-CONFIG stores the clamped hold time and, for each lane, its rate and clamped window, and restarts
exactly the lanes whose rate changes, marking them in the answer; an unknown rate refuses it whole.
That the bits above lane D's are 0 is the model's choice (log 23). -/
def Obligations.SetConfigStoresSettings : Prop :=
  ∀ (hold : Nat) (w : Vector (Nat × Nat) 4) (s : State), s.mode = .operating →
    ((∃ l : Fin 4, 3 < w[l].1) → Answers (.setConfig 0 hold w) s 0 .setConfig s (refuse .badValue [])) ∧
    ((∀ l : Fin 4, w[l].1 ≤ 3) →
      let window := fun l : Fin 4 => max 2 (min 20 w[l].2)
      let changed := fun l : Fin 4 => if (s.lane l).rate.code = w[l].1 then 0 else 2 ^ l.val
      ∃ v, Answers (.setConfig 0 hold w) s 0 .setConfig v
          (okWith [u16 (max 10 (min 300 hold)), u8 w[0].1, u8 w[1].1, u8 w[2].1, u8 w[3].1,
            u8 (window 0), u8 (window 1), u8 (window 2), u8 (window 3), u8 (changed 0 + changed 1 + changed 2 + changed 3)]) ∧
        SameBut [.holdTime, .lanes, .drops, .views] s v ∧ v.holdTime = max 10 (min 300 hold) ∧ v.view 0 = s.view 0 ∧
        ∀ l : Fin 4, (v.lane l).rate.code = w[l].1 ∧ (v.lane l).window = window l ∧ (v.lane l).role = (s.lane l).role ∧
          ((s.lane l).rate.code = w[l].1 → v.lane l = { s.lane l with window := window l } ∧
            ∀ d, isDrop d = true → laneOf d = l → v.drop d = s.drop d ∧ v.view d = s.view d) ∧
          ((s.lane l).rate.code ≠ w[l].1 →
            ((v.lane l).passCount = 0 ∧ (v.lane l).position = 1 ∧ (v.lane l).phase = .ready) ∧
            ∀ d, isDrop d = true → laneOf d = l → v.drop d = .cold ∧ v.view d = none))

/-- R168, R170: LANE-RESTART restarts its lane; SET-LANE-ROLE in PREP leaves a lane of that role alone and otherwise stores the
role and restarts the lane; a lane or role that is none is refused. -/
def Obligations.LaneRestartAndRole : Prop :=
  ∀ s : State, s.mode = .operating →
    (∀ lane, 3 < lane → Answers (.laneRestart 0 lane) s 0 .laneRestart s (refuse .badValue [])) ∧
    (∀ l : Fin 4, ∃ v, Answers (.laneRestart 0 l.val) s 0 .laneRestart v (okWith [u8 l.val]) ∧
      SameBut [.lanes, .drops, .views] s v ∧ RestartsLane l s v ∧
      v.lane l = { s.lane l with passCount := 0, position := 1, phase := .ready }) ∧
    (s.period = .prep →
      (∀ lane role, 3 < lane ∨ 1 < role → Answers (.setLaneRole 0 lane role) s 0 .setLaneRole s (refuse .badValue [])) ∧
      ∀ (l : Fin 4) (r : Role),
        ((s.lane l).role = r → Answers (.setLaneRole 0 l.val r.code) s 0 .setLaneRole s (okWith [u8 l.val, u8 r.code])) ∧
        ((s.lane l).role ≠ r → ∃ v, Answers (.setLaneRole 0 l.val r.code) s 0 .setLaneRole v (okWith [u8 l.val, u8 r.code]) ∧
          SameBut [.lanes, .drops, .views] s v ∧ RestartsLane l s v ∧
          v.lane l = { s.lane l with role := r, passCount := 0, position := 1, phase := .ready }))

/-- R186: READ-CONFIG answers the period, the clock, the role of each lane, the presence of each drop and the four free counts,
and changes nothing.
That the bits above lane D's are 0 is the model's choice (log 23). -/
def Obligations.ReadConfigReportsFreeCounts : Prop :=
  ∀ s : State, s.mode = .operating → ∃ roles presence,
    Answers (.readConfig 0) s 0 .readConfig s
      (okWith [u8 s.period.code, u32 s.clock, u8 roles, u32 presence, u16 (1024 - s.tabs.length),
        u16 (8192 - (s.tabs.map fun e => e.2.lines.length).sum), u16 (256 - s.tickets.length),
        u8 (128 - s.tabs.countP fun e => e.2.settlement.isSome)]) ∧
    (roles < 16 ∧ ∀ l : Fin 4, roles.testBit l.val = decide ((s.lane l).role = .kitchen)) ∧
    presence < 2 ^ 32 ∧ ∀ d, isDrop d = true → presence.testBit (d - 1) = (s.drop d).present

/-- R188: READ-ALERT removes and answers the oldest entry with the marker as it stood and the number left, clears the marker when
the table is then empty, and on an empty table answers only a count of 0. -/
def Obligations.ReadAlertTakesOldest : Prop :=
  ∀ s : State, s.mode = .operating →
    (s.alerts = [] → Answers (.readAlert 0) s 0 .readAlert s ⟨.ok, 0, [u8 0]⟩) ∧
    ∀ a rest, s.alerts = a :: rest →
      ∃ v, Answers (.readAlert 0) s 0 .readAlert v
          ⟨.ok, if s.alertsFull = true then 4 else 0, [u8 a.kind.code, u16 a.subject, u32 a.clock, u8 rest.length]⟩ ∧
        SameBut [.alerts, .alertsFull] s v ∧ v.alerts = rest ∧ (v.alertsFull = true ↔ s.alertsFull = true ∧ rest ≠ [])

/-! ### The laws every step keeps -/

/-- R9, R10, R36, R37, R39, R122: every step keeps the tab table in order and within its slots, its counter in range, the
line pool and the settlement table within their records and each tab sound, and leaves no tab standing in PREP or in CLOSED. -/
def Obligations.StepKeepsTabTable : Prop :=
  ∀ s t : State, s.TabsOk ∧ s.HoursOk → step s = .next t → t.TabsOk ∧ t.HoursOk

/-- R77, R78: every step keeps the ticket table within its slots, with no number twice, its counter in range, and each ticket's
lines and age in their ranges. -/
def Obligations.StepKeepsTicketTable : Prop := ∀ s t : State, s.TicketsOk → step s = .next t → t.TicketsOk

/-- R146: every step keeps the hold records and the HELD shares naming each other. -/
def Obligations.StepKeepsHolds : Prop := ∀ s t : State, s.TabsOk ∧ s.HoldsOk → step s = .next t → t.HoldsOk

/-- R187, R189: every step keeps the alert table within 32 entries, with no key twice and no marker on an empty table. -/
def Obligations.StepKeepsAlertTable : Prop := ∀ s t : State, s.AlertsOk → step s = .next t → t.AlertsOk

/-- R166, R176, R178, R179: every step keeps each drop's queues within their places and the drop ABSENT exactly at three
misses. -/
def Obligations.StepKeepsDrops : Prop := ∀ s t : State, s.DropsOk → step s = .next t → t.DropsOk

/-- R11, R18, R26, R93, R102, R145, R156, R161, R166: every step keeps the settings, counts and amounts in their ranges and each
LIVE queue within its load limit. -/
def Obligations.StepKeepsRanges : Prop :=
  ∀ s t : State, s.SettingsOk ∧ s.StationsOk ∧ s.MoneyOk ∧ s.MenuOk → step s = .next t →
    t.SettingsOk ∧ t.StationsOk ∧ t.MoneyOk ∧ t.MenuOk

/-- R16: the part at the end of a cold start, with the CFG strap either way, meets every law that its steps keep.
The levels of the pins in it are the model's choice (log 1). -/
def Obligations.ColdStartMeetsLaws : Prop :=
  ∀ cfg : Bool, let s := State.cold cfg
    s.HoursOk ∧ s.TabsOk ∧ s.TicketsOk ∧ s.HoldsOk ∧ s.AlertsOk ∧ s.DropsOk ∧ s.SettingsOk ∧ s.StationsOk ∧ s.MoneyOk ∧ s.MenuOk
end

