-- ==== Sys2Proof/Laws/State.lean ====
section
/-! SUPPORT. Laws/State.lean: what each update of State leaves alone, one lemma for a field; and what each accessor reads after
each update. -/

namespace Sys2Proof.Machine

/-! ### setDrop -/

@[simp] theorem State.setDrop_mode (s : State) (d : Nat) (x : Drop) : (s.setDrop d x).mode = s.mode := rfl
@[simp] theorem State.setDrop_resetPinLow (s : State) (d : Nat) (x : Drop) : (s.setDrop d x).resetPinLow = s.resetPinLow := rfl
@[simp] theorem State.setDrop_supplyNotGood (s : State) (d : Nat) (x : Drop) : (s.setDrop d x).supplyNotGood = s.supplyNotGood := rfl
@[simp] theorem State.setDrop_cfgHigh (s : State) (d : Nat) (x : Drop) : (s.setDrop d x).cfgHigh = s.cfgHigh := rfl
@[simp] theorem State.setDrop_period (s : State) (d : Nat) (x : Drop) : (s.setDrop d x).period = s.period := rfl
@[simp] theorem State.setDrop_clock (s : State) (d : Nat) (x : Drop) : (s.setDrop d x).clock = s.clock := rfl
@[simp] theorem State.setDrop_items (s : State) (d : Nat) (x : Drop) : (s.setDrop d x).items = s.items := rfl
@[simp] theorem State.setDrop_taxRates (s : State) (d : Nat) (x : Drop) : (s.setDrop d x).taxRates = s.taxRates := rfl
@[simp] theorem State.setDrop_tabs (s : State) (d : Nat) (x : Drop) : (s.setDrop d x).tabs = s.tabs := rfl
@[simp] theorem State.setDrop_tabCounter (s : State) (d : Nat) (x : Drop) : (s.setDrop d x).tabCounter = s.tabCounter := rfl
@[simp] theorem State.setDrop_views (s : State) (d : Nat) (x : Drop) : (s.setDrop d x).views = s.views := rfl
@[simp] theorem State.setDrop_holdTime (s : State) (d : Nat) (x : Drop) : (s.setDrop d x).holdTime = s.holdTime := rfl
@[simp] theorem State.setDrop_holds (s : State) (d : Nat) (x : Drop) : (s.setDrop d x).holds = s.holds := rfl
@[simp] theorem State.setDrop_drawers (s : State) (d : Nat) (x : Drop) : (s.setDrop d x).drawers = s.drawers := rfl
@[simp] theorem State.setDrop_writeOffTotal (s : State) (d : Nat) (x : Drop) : (s.setDrop d x).writeOffTotal = s.writeOffTotal := rfl
@[simp] theorem State.setDrop_tickets (s : State) (d : Nat) (x : Drop) : (s.setDrop d x).tickets = s.tickets := rfl
@[simp] theorem State.setDrop_ticketCounter (s : State) (d : Nat) (x : Drop) : (s.setDrop d x).ticketCounter = s.ticketCounter := rfl
@[simp] theorem State.setDrop_fireCount (s : State) (d : Nat) (x : Drop) : (s.setDrop d x).fireCount = s.fireCount := rfl
@[simp] theorem State.setDrop_risesDue (s : State) (d : Nat) (x : Drop) : (s.setDrop d x).risesDue = s.risesDue := rfl
@[simp] theorem State.setDrop_stations (s : State) (d : Nat) (x : Drop) : (s.setDrop d x).stations = s.stations := rfl
@[simp] theorem State.setDrop_lanes (s : State) (d : Nat) (x : Drop) : (s.setDrop d x).lanes = s.lanes := rfl
@[simp] theorem State.setDrop_transfer (s : State) (d : Nat) (x : Drop) : (s.setDrop d x).transfer = s.transfer := rfl
@[simp] theorem State.setDrop_answerSlot (s : State) (d : Nat) (x : Drop) : (s.setDrop d x).answerSlot = s.answerSlot := rfl
@[simp] theorem State.setDrop_alerts (s : State) (d : Nat) (x : Drop) : (s.setDrop d x).alerts = s.alerts := rfl
@[simp] theorem State.setDrop_alertsFull (s : State) (d : Nat) (x : Drop) : (s.setDrop d x).alertsFull = s.alertsFull := rfl
@[simp] theorem State.setDrop_freeDraws (s : State) (d : Nat) (x : Drop) : (s.setDrop d x).freeDraws = s.freeDraws := rfl
@[simp] theorem State.setDrop_pending (s : State) (d : Nat) (x : Drop) : (s.setDrop d x).pending = s.pending := rfl

/-! ### setStation -/

@[simp] theorem State.setStation_mode (s : State) (d : Nat) (x : Station) : (s.setStation d x).mode = s.mode := rfl
@[simp] theorem State.setStation_resetPinLow (s : State) (d : Nat) (x : Station) : (s.setStation d x).resetPinLow = s.resetPinLow := rfl
@[simp] theorem State.setStation_supplyNotGood (s : State) (d : Nat) (x : Station) : (s.setStation d x).supplyNotGood = s.supplyNotGood := rfl
@[simp] theorem State.setStation_cfgHigh (s : State) (d : Nat) (x : Station) : (s.setStation d x).cfgHigh = s.cfgHigh := rfl
@[simp] theorem State.setStation_period (s : State) (d : Nat) (x : Station) : (s.setStation d x).period = s.period := rfl
@[simp] theorem State.setStation_clock (s : State) (d : Nat) (x : Station) : (s.setStation d x).clock = s.clock := rfl
@[simp] theorem State.setStation_items (s : State) (d : Nat) (x : Station) : (s.setStation d x).items = s.items := rfl
@[simp] theorem State.setStation_taxRates (s : State) (d : Nat) (x : Station) : (s.setStation d x).taxRates = s.taxRates := rfl
@[simp] theorem State.setStation_tabs (s : State) (d : Nat) (x : Station) : (s.setStation d x).tabs = s.tabs := rfl
@[simp] theorem State.setStation_tabCounter (s : State) (d : Nat) (x : Station) : (s.setStation d x).tabCounter = s.tabCounter := rfl
@[simp] theorem State.setStation_views (s : State) (d : Nat) (x : Station) : (s.setStation d x).views = s.views := rfl
@[simp] theorem State.setStation_holdTime (s : State) (d : Nat) (x : Station) : (s.setStation d x).holdTime = s.holdTime := rfl
@[simp] theorem State.setStation_holds (s : State) (d : Nat) (x : Station) : (s.setStation d x).holds = s.holds := rfl
@[simp] theorem State.setStation_drawers (s : State) (d : Nat) (x : Station) : (s.setStation d x).drawers = s.drawers := rfl
@[simp] theorem State.setStation_writeOffTotal (s : State) (d : Nat) (x : Station) : (s.setStation d x).writeOffTotal = s.writeOffTotal := rfl
@[simp] theorem State.setStation_tickets (s : State) (d : Nat) (x : Station) : (s.setStation d x).tickets = s.tickets := rfl
@[simp] theorem State.setStation_ticketCounter (s : State) (d : Nat) (x : Station) : (s.setStation d x).ticketCounter = s.ticketCounter := rfl
@[simp] theorem State.setStation_fireCount (s : State) (d : Nat) (x : Station) : (s.setStation d x).fireCount = s.fireCount := rfl
@[simp] theorem State.setStation_risesDue (s : State) (d : Nat) (x : Station) : (s.setStation d x).risesDue = s.risesDue := rfl
@[simp] theorem State.setStation_lanes (s : State) (d : Nat) (x : Station) : (s.setStation d x).lanes = s.lanes := rfl
@[simp] theorem State.setStation_drops (s : State) (d : Nat) (x : Station) : (s.setStation d x).drops = s.drops := rfl
@[simp] theorem State.setStation_transfer (s : State) (d : Nat) (x : Station) : (s.setStation d x).transfer = s.transfer := rfl
@[simp] theorem State.setStation_answerSlot (s : State) (d : Nat) (x : Station) : (s.setStation d x).answerSlot = s.answerSlot := rfl
@[simp] theorem State.setStation_alerts (s : State) (d : Nat) (x : Station) : (s.setStation d x).alerts = s.alerts := rfl
@[simp] theorem State.setStation_alertsFull (s : State) (d : Nat) (x : Station) : (s.setStation d x).alertsFull = s.alertsFull := rfl
@[simp] theorem State.setStation_freeDraws (s : State) (d : Nat) (x : Station) : (s.setStation d x).freeDraws = s.freeDraws := rfl
@[simp] theorem State.setStation_pending (s : State) (d : Nat) (x : Station) : (s.setStation d x).pending = s.pending := rfl

/-! ### setLane -/

@[simp] theorem State.setLane_mode (s : State) (l : Fin 4) (x : Lane) : (s.setLane l x).mode = s.mode := rfl
@[simp] theorem State.setLane_resetPinLow (s : State) (l : Fin 4) (x : Lane) : (s.setLane l x).resetPinLow = s.resetPinLow := rfl
@[simp] theorem State.setLane_supplyNotGood (s : State) (l : Fin 4) (x : Lane) : (s.setLane l x).supplyNotGood = s.supplyNotGood := rfl
@[simp] theorem State.setLane_cfgHigh (s : State) (l : Fin 4) (x : Lane) : (s.setLane l x).cfgHigh = s.cfgHigh := rfl
@[simp] theorem State.setLane_period (s : State) (l : Fin 4) (x : Lane) : (s.setLane l x).period = s.period := rfl
@[simp] theorem State.setLane_clock (s : State) (l : Fin 4) (x : Lane) : (s.setLane l x).clock = s.clock := rfl
@[simp] theorem State.setLane_items (s : State) (l : Fin 4) (x : Lane) : (s.setLane l x).items = s.items := rfl
@[simp] theorem State.setLane_taxRates (s : State) (l : Fin 4) (x : Lane) : (s.setLane l x).taxRates = s.taxRates := rfl
@[simp] theorem State.setLane_tabs (s : State) (l : Fin 4) (x : Lane) : (s.setLane l x).tabs = s.tabs := rfl
@[simp] theorem State.setLane_tabCounter (s : State) (l : Fin 4) (x : Lane) : (s.setLane l x).tabCounter = s.tabCounter := rfl
@[simp] theorem State.setLane_views (s : State) (l : Fin 4) (x : Lane) : (s.setLane l x).views = s.views := rfl
@[simp] theorem State.setLane_holdTime (s : State) (l : Fin 4) (x : Lane) : (s.setLane l x).holdTime = s.holdTime := rfl
@[simp] theorem State.setLane_holds (s : State) (l : Fin 4) (x : Lane) : (s.setLane l x).holds = s.holds := rfl
@[simp] theorem State.setLane_drawers (s : State) (l : Fin 4) (x : Lane) : (s.setLane l x).drawers = s.drawers := rfl
@[simp] theorem State.setLane_writeOffTotal (s : State) (l : Fin 4) (x : Lane) : (s.setLane l x).writeOffTotal = s.writeOffTotal := rfl
@[simp] theorem State.setLane_tickets (s : State) (l : Fin 4) (x : Lane) : (s.setLane l x).tickets = s.tickets := rfl
@[simp] theorem State.setLane_ticketCounter (s : State) (l : Fin 4) (x : Lane) : (s.setLane l x).ticketCounter = s.ticketCounter := rfl
@[simp] theorem State.setLane_fireCount (s : State) (l : Fin 4) (x : Lane) : (s.setLane l x).fireCount = s.fireCount := rfl
@[simp] theorem State.setLane_risesDue (s : State) (l : Fin 4) (x : Lane) : (s.setLane l x).risesDue = s.risesDue := rfl
@[simp] theorem State.setLane_stations (s : State) (l : Fin 4) (x : Lane) : (s.setLane l x).stations = s.stations := rfl
@[simp] theorem State.setLane_drops (s : State) (l : Fin 4) (x : Lane) : (s.setLane l x).drops = s.drops := rfl
@[simp] theorem State.setLane_transfer (s : State) (l : Fin 4) (x : Lane) : (s.setLane l x).transfer = s.transfer := rfl
@[simp] theorem State.setLane_answerSlot (s : State) (l : Fin 4) (x : Lane) : (s.setLane l x).answerSlot = s.answerSlot := rfl
@[simp] theorem State.setLane_alerts (s : State) (l : Fin 4) (x : Lane) : (s.setLane l x).alerts = s.alerts := rfl
@[simp] theorem State.setLane_alertsFull (s : State) (l : Fin 4) (x : Lane) : (s.setLane l x).alertsFull = s.alertsFull := rfl
@[simp] theorem State.setLane_freeDraws (s : State) (l : Fin 4) (x : Lane) : (s.setLane l x).freeDraws = s.freeDraws := rfl
@[simp] theorem State.setLane_pending (s : State) (l : Fin 4) (x : Lane) : (s.setLane l x).pending = s.pending := rfl

/-! ### setView -/

@[simp] theorem State.setView_mode (s : State) (n : Nat) (v : Option View) : (s.setView n v).mode = s.mode := rfl
@[simp] theorem State.setView_resetPinLow (s : State) (n : Nat) (v : Option View) : (s.setView n v).resetPinLow = s.resetPinLow := rfl
@[simp] theorem State.setView_supplyNotGood (s : State) (n : Nat) (v : Option View) : (s.setView n v).supplyNotGood = s.supplyNotGood := rfl
@[simp] theorem State.setView_cfgHigh (s : State) (n : Nat) (v : Option View) : (s.setView n v).cfgHigh = s.cfgHigh := rfl
@[simp] theorem State.setView_period (s : State) (n : Nat) (v : Option View) : (s.setView n v).period = s.period := rfl
@[simp] theorem State.setView_clock (s : State) (n : Nat) (v : Option View) : (s.setView n v).clock = s.clock := rfl
@[simp] theorem State.setView_items (s : State) (n : Nat) (v : Option View) : (s.setView n v).items = s.items := rfl
@[simp] theorem State.setView_taxRates (s : State) (n : Nat) (v : Option View) : (s.setView n v).taxRates = s.taxRates := rfl
@[simp] theorem State.setView_tabs (s : State) (n : Nat) (v : Option View) : (s.setView n v).tabs = s.tabs := rfl
@[simp] theorem State.setView_tabCounter (s : State) (n : Nat) (v : Option View) : (s.setView n v).tabCounter = s.tabCounter := rfl
@[simp] theorem State.setView_holdTime (s : State) (n : Nat) (v : Option View) : (s.setView n v).holdTime = s.holdTime := rfl
@[simp] theorem State.setView_holds (s : State) (n : Nat) (v : Option View) : (s.setView n v).holds = s.holds := rfl
@[simp] theorem State.setView_drawers (s : State) (n : Nat) (v : Option View) : (s.setView n v).drawers = s.drawers := rfl
@[simp] theorem State.setView_writeOffTotal (s : State) (n : Nat) (v : Option View) : (s.setView n v).writeOffTotal = s.writeOffTotal := rfl
@[simp] theorem State.setView_tickets (s : State) (n : Nat) (v : Option View) : (s.setView n v).tickets = s.tickets := rfl
@[simp] theorem State.setView_ticketCounter (s : State) (n : Nat) (v : Option View) : (s.setView n v).ticketCounter = s.ticketCounter := rfl
@[simp] theorem State.setView_fireCount (s : State) (n : Nat) (v : Option View) : (s.setView n v).fireCount = s.fireCount := rfl
@[simp] theorem State.setView_risesDue (s : State) (n : Nat) (v : Option View) : (s.setView n v).risesDue = s.risesDue := rfl
@[simp] theorem State.setView_stations (s : State) (n : Nat) (v : Option View) : (s.setView n v).stations = s.stations := rfl
@[simp] theorem State.setView_lanes (s : State) (n : Nat) (v : Option View) : (s.setView n v).lanes = s.lanes := rfl
@[simp] theorem State.setView_drops (s : State) (n : Nat) (v : Option View) : (s.setView n v).drops = s.drops := rfl
@[simp] theorem State.setView_transfer (s : State) (n : Nat) (v : Option View) : (s.setView n v).transfer = s.transfer := rfl
@[simp] theorem State.setView_answerSlot (s : State) (n : Nat) (v : Option View) : (s.setView n v).answerSlot = s.answerSlot := rfl
@[simp] theorem State.setView_alerts (s : State) (n : Nat) (v : Option View) : (s.setView n v).alerts = s.alerts := rfl
@[simp] theorem State.setView_alertsFull (s : State) (n : Nat) (v : Option View) : (s.setView n v).alertsFull = s.alertsFull := rfl
@[simp] theorem State.setView_freeDraws (s : State) (n : Nat) (v : Option View) : (s.setView n v).freeDraws = s.freeDraws := rfl
@[simp] theorem State.setView_pending (s : State) (n : Nat) (v : Option View) : (s.setView n v).pending = s.pending := rfl

/-! ### setHold -/

@[simp] theorem State.setHold_mode (s : State) (n : Nat) (h : Option HoldRef) : (s.setHold n h).mode = s.mode := rfl
@[simp] theorem State.setHold_resetPinLow (s : State) (n : Nat) (h : Option HoldRef) : (s.setHold n h).resetPinLow = s.resetPinLow := rfl
@[simp] theorem State.setHold_supplyNotGood (s : State) (n : Nat) (h : Option HoldRef) : (s.setHold n h).supplyNotGood = s.supplyNotGood := rfl
@[simp] theorem State.setHold_cfgHigh (s : State) (n : Nat) (h : Option HoldRef) : (s.setHold n h).cfgHigh = s.cfgHigh := rfl
@[simp] theorem State.setHold_period (s : State) (n : Nat) (h : Option HoldRef) : (s.setHold n h).period = s.period := rfl
@[simp] theorem State.setHold_clock (s : State) (n : Nat) (h : Option HoldRef) : (s.setHold n h).clock = s.clock := rfl
@[simp] theorem State.setHold_items (s : State) (n : Nat) (h : Option HoldRef) : (s.setHold n h).items = s.items := rfl
@[simp] theorem State.setHold_taxRates (s : State) (n : Nat) (h : Option HoldRef) : (s.setHold n h).taxRates = s.taxRates := rfl
@[simp] theorem State.setHold_tabs (s : State) (n : Nat) (h : Option HoldRef) : (s.setHold n h).tabs = s.tabs := rfl
@[simp] theorem State.setHold_tabCounter (s : State) (n : Nat) (h : Option HoldRef) : (s.setHold n h).tabCounter = s.tabCounter := rfl
@[simp] theorem State.setHold_views (s : State) (n : Nat) (h : Option HoldRef) : (s.setHold n h).views = s.views := rfl
@[simp] theorem State.setHold_holdTime (s : State) (n : Nat) (h : Option HoldRef) : (s.setHold n h).holdTime = s.holdTime := rfl
@[simp] theorem State.setHold_drawers (s : State) (n : Nat) (h : Option HoldRef) : (s.setHold n h).drawers = s.drawers := rfl
@[simp] theorem State.setHold_writeOffTotal (s : State) (n : Nat) (h : Option HoldRef) : (s.setHold n h).writeOffTotal = s.writeOffTotal := rfl
@[simp] theorem State.setHold_tickets (s : State) (n : Nat) (h : Option HoldRef) : (s.setHold n h).tickets = s.tickets := rfl
@[simp] theorem State.setHold_ticketCounter (s : State) (n : Nat) (h : Option HoldRef) : (s.setHold n h).ticketCounter = s.ticketCounter := rfl
@[simp] theorem State.setHold_fireCount (s : State) (n : Nat) (h : Option HoldRef) : (s.setHold n h).fireCount = s.fireCount := rfl
@[simp] theorem State.setHold_risesDue (s : State) (n : Nat) (h : Option HoldRef) : (s.setHold n h).risesDue = s.risesDue := rfl
@[simp] theorem State.setHold_stations (s : State) (n : Nat) (h : Option HoldRef) : (s.setHold n h).stations = s.stations := rfl
@[simp] theorem State.setHold_lanes (s : State) (n : Nat) (h : Option HoldRef) : (s.setHold n h).lanes = s.lanes := rfl
@[simp] theorem State.setHold_drops (s : State) (n : Nat) (h : Option HoldRef) : (s.setHold n h).drops = s.drops := rfl
@[simp] theorem State.setHold_transfer (s : State) (n : Nat) (h : Option HoldRef) : (s.setHold n h).transfer = s.transfer := rfl
@[simp] theorem State.setHold_answerSlot (s : State) (n : Nat) (h : Option HoldRef) : (s.setHold n h).answerSlot = s.answerSlot := rfl
@[simp] theorem State.setHold_alerts (s : State) (n : Nat) (h : Option HoldRef) : (s.setHold n h).alerts = s.alerts := rfl
@[simp] theorem State.setHold_alertsFull (s : State) (n : Nat) (h : Option HoldRef) : (s.setHold n h).alertsFull = s.alertsFull := rfl
@[simp] theorem State.setHold_freeDraws (s : State) (n : Nat) (h : Option HoldRef) : (s.setHold n h).freeDraws = s.freeDraws := rfl
@[simp] theorem State.setHold_pending (s : State) (n : Nat) (h : Option HoldRef) : (s.setHold n h).pending = s.pending := rfl

/-! ### setDrawer -/

@[simp] theorem State.setDrawer_mode (s : State) (n : Nat) (d : Drawer) : (s.setDrawer n d).mode = s.mode := rfl
@[simp] theorem State.setDrawer_resetPinLow (s : State) (n : Nat) (d : Drawer) : (s.setDrawer n d).resetPinLow = s.resetPinLow := rfl
@[simp] theorem State.setDrawer_supplyNotGood (s : State) (n : Nat) (d : Drawer) : (s.setDrawer n d).supplyNotGood = s.supplyNotGood := rfl
@[simp] theorem State.setDrawer_cfgHigh (s : State) (n : Nat) (d : Drawer) : (s.setDrawer n d).cfgHigh = s.cfgHigh := rfl
@[simp] theorem State.setDrawer_period (s : State) (n : Nat) (d : Drawer) : (s.setDrawer n d).period = s.period := rfl
@[simp] theorem State.setDrawer_clock (s : State) (n : Nat) (d : Drawer) : (s.setDrawer n d).clock = s.clock := rfl
@[simp] theorem State.setDrawer_items (s : State) (n : Nat) (d : Drawer) : (s.setDrawer n d).items = s.items := rfl
@[simp] theorem State.setDrawer_taxRates (s : State) (n : Nat) (d : Drawer) : (s.setDrawer n d).taxRates = s.taxRates := rfl
@[simp] theorem State.setDrawer_tabs (s : State) (n : Nat) (d : Drawer) : (s.setDrawer n d).tabs = s.tabs := rfl
@[simp] theorem State.setDrawer_tabCounter (s : State) (n : Nat) (d : Drawer) : (s.setDrawer n d).tabCounter = s.tabCounter := rfl
@[simp] theorem State.setDrawer_views (s : State) (n : Nat) (d : Drawer) : (s.setDrawer n d).views = s.views := rfl
@[simp] theorem State.setDrawer_holdTime (s : State) (n : Nat) (d : Drawer) : (s.setDrawer n d).holdTime = s.holdTime := rfl
@[simp] theorem State.setDrawer_holds (s : State) (n : Nat) (d : Drawer) : (s.setDrawer n d).holds = s.holds := rfl
@[simp] theorem State.setDrawer_writeOffTotal (s : State) (n : Nat) (d : Drawer) : (s.setDrawer n d).writeOffTotal = s.writeOffTotal := rfl
@[simp] theorem State.setDrawer_tickets (s : State) (n : Nat) (d : Drawer) : (s.setDrawer n d).tickets = s.tickets := rfl
@[simp] theorem State.setDrawer_ticketCounter (s : State) (n : Nat) (d : Drawer) : (s.setDrawer n d).ticketCounter = s.ticketCounter := rfl
@[simp] theorem State.setDrawer_fireCount (s : State) (n : Nat) (d : Drawer) : (s.setDrawer n d).fireCount = s.fireCount := rfl
@[simp] theorem State.setDrawer_risesDue (s : State) (n : Nat) (d : Drawer) : (s.setDrawer n d).risesDue = s.risesDue := rfl
@[simp] theorem State.setDrawer_stations (s : State) (n : Nat) (d : Drawer) : (s.setDrawer n d).stations = s.stations := rfl
@[simp] theorem State.setDrawer_lanes (s : State) (n : Nat) (d : Drawer) : (s.setDrawer n d).lanes = s.lanes := rfl
@[simp] theorem State.setDrawer_drops (s : State) (n : Nat) (d : Drawer) : (s.setDrawer n d).drops = s.drops := rfl
@[simp] theorem State.setDrawer_transfer (s : State) (n : Nat) (d : Drawer) : (s.setDrawer n d).transfer = s.transfer := rfl
@[simp] theorem State.setDrawer_answerSlot (s : State) (n : Nat) (d : Drawer) : (s.setDrawer n d).answerSlot = s.answerSlot := rfl
@[simp] theorem State.setDrawer_alerts (s : State) (n : Nat) (d : Drawer) : (s.setDrawer n d).alerts = s.alerts := rfl
@[simp] theorem State.setDrawer_alertsFull (s : State) (n : Nat) (d : Drawer) : (s.setDrawer n d).alertsFull = s.alertsFull := rfl
@[simp] theorem State.setDrawer_freeDraws (s : State) (n : Nat) (d : Drawer) : (s.setDrawer n d).freeDraws = s.freeDraws := rfl
@[simp] theorem State.setDrawer_pending (s : State) (n : Nat) (d : Drawer) : (s.setDrawer n d).pending = s.pending := rfl

/-! ### setTaxRate -/

@[simp] theorem State.setTaxRate_mode (s : State) (c r : Nat) : (s.setTaxRate c r).mode = s.mode := rfl
@[simp] theorem State.setTaxRate_resetPinLow (s : State) (c r : Nat) : (s.setTaxRate c r).resetPinLow = s.resetPinLow := rfl
@[simp] theorem State.setTaxRate_supplyNotGood (s : State) (c r : Nat) : (s.setTaxRate c r).supplyNotGood = s.supplyNotGood := rfl
@[simp] theorem State.setTaxRate_cfgHigh (s : State) (c r : Nat) : (s.setTaxRate c r).cfgHigh = s.cfgHigh := rfl
@[simp] theorem State.setTaxRate_period (s : State) (c r : Nat) : (s.setTaxRate c r).period = s.period := rfl
@[simp] theorem State.setTaxRate_clock (s : State) (c r : Nat) : (s.setTaxRate c r).clock = s.clock := rfl
@[simp] theorem State.setTaxRate_items (s : State) (c r : Nat) : (s.setTaxRate c r).items = s.items := rfl
@[simp] theorem State.setTaxRate_tabs (s : State) (c r : Nat) : (s.setTaxRate c r).tabs = s.tabs := rfl
@[simp] theorem State.setTaxRate_tabCounter (s : State) (c r : Nat) : (s.setTaxRate c r).tabCounter = s.tabCounter := rfl
@[simp] theorem State.setTaxRate_views (s : State) (c r : Nat) : (s.setTaxRate c r).views = s.views := rfl
@[simp] theorem State.setTaxRate_holdTime (s : State) (c r : Nat) : (s.setTaxRate c r).holdTime = s.holdTime := rfl
@[simp] theorem State.setTaxRate_holds (s : State) (c r : Nat) : (s.setTaxRate c r).holds = s.holds := rfl
@[simp] theorem State.setTaxRate_drawers (s : State) (c r : Nat) : (s.setTaxRate c r).drawers = s.drawers := rfl
@[simp] theorem State.setTaxRate_writeOffTotal (s : State) (c r : Nat) : (s.setTaxRate c r).writeOffTotal = s.writeOffTotal := rfl
@[simp] theorem State.setTaxRate_tickets (s : State) (c r : Nat) : (s.setTaxRate c r).tickets = s.tickets := rfl
@[simp] theorem State.setTaxRate_ticketCounter (s : State) (c r : Nat) : (s.setTaxRate c r).ticketCounter = s.ticketCounter := rfl
@[simp] theorem State.setTaxRate_fireCount (s : State) (c r : Nat) : (s.setTaxRate c r).fireCount = s.fireCount := rfl
@[simp] theorem State.setTaxRate_risesDue (s : State) (c r : Nat) : (s.setTaxRate c r).risesDue = s.risesDue := rfl
@[simp] theorem State.setTaxRate_stations (s : State) (c r : Nat) : (s.setTaxRate c r).stations = s.stations := rfl
@[simp] theorem State.setTaxRate_lanes (s : State) (c r : Nat) : (s.setTaxRate c r).lanes = s.lanes := rfl
@[simp] theorem State.setTaxRate_drops (s : State) (c r : Nat) : (s.setTaxRate c r).drops = s.drops := rfl
@[simp] theorem State.setTaxRate_transfer (s : State) (c r : Nat) : (s.setTaxRate c r).transfer = s.transfer := rfl
@[simp] theorem State.setTaxRate_answerSlot (s : State) (c r : Nat) : (s.setTaxRate c r).answerSlot = s.answerSlot := rfl
@[simp] theorem State.setTaxRate_alerts (s : State) (c r : Nat) : (s.setTaxRate c r).alerts = s.alerts := rfl
@[simp] theorem State.setTaxRate_alertsFull (s : State) (c r : Nat) : (s.setTaxRate c r).alertsFull = s.alertsFull := rfl
@[simp] theorem State.setTaxRate_freeDraws (s : State) (c r : Nat) : (s.setTaxRate c r).freeDraws = s.freeDraws := rfl
@[simp] theorem State.setTaxRate_pending (s : State) (c r : Nat) : (s.setTaxRate c r).pending = s.pending := rfl

/-! ### setItem -/

@[simp] theorem State.setItem_mode (s : State) (n : Nat) (x : Item) : (s.setItem n x).mode = s.mode := rfl
@[simp] theorem State.setItem_resetPinLow (s : State) (n : Nat) (x : Item) : (s.setItem n x).resetPinLow = s.resetPinLow := rfl
@[simp] theorem State.setItem_supplyNotGood (s : State) (n : Nat) (x : Item) : (s.setItem n x).supplyNotGood = s.supplyNotGood := rfl
@[simp] theorem State.setItem_cfgHigh (s : State) (n : Nat) (x : Item) : (s.setItem n x).cfgHigh = s.cfgHigh := rfl
@[simp] theorem State.setItem_period (s : State) (n : Nat) (x : Item) : (s.setItem n x).period = s.period := rfl
@[simp] theorem State.setItem_clock (s : State) (n : Nat) (x : Item) : (s.setItem n x).clock = s.clock := rfl
@[simp] theorem State.setItem_taxRates (s : State) (n : Nat) (x : Item) : (s.setItem n x).taxRates = s.taxRates := rfl
@[simp] theorem State.setItem_tabs (s : State) (n : Nat) (x : Item) : (s.setItem n x).tabs = s.tabs := rfl
@[simp] theorem State.setItem_tabCounter (s : State) (n : Nat) (x : Item) : (s.setItem n x).tabCounter = s.tabCounter := rfl
@[simp] theorem State.setItem_views (s : State) (n : Nat) (x : Item) : (s.setItem n x).views = s.views := rfl
@[simp] theorem State.setItem_holdTime (s : State) (n : Nat) (x : Item) : (s.setItem n x).holdTime = s.holdTime := rfl
@[simp] theorem State.setItem_holds (s : State) (n : Nat) (x : Item) : (s.setItem n x).holds = s.holds := rfl
@[simp] theorem State.setItem_drawers (s : State) (n : Nat) (x : Item) : (s.setItem n x).drawers = s.drawers := rfl
@[simp] theorem State.setItem_writeOffTotal (s : State) (n : Nat) (x : Item) : (s.setItem n x).writeOffTotal = s.writeOffTotal := rfl
@[simp] theorem State.setItem_tickets (s : State) (n : Nat) (x : Item) : (s.setItem n x).tickets = s.tickets := rfl
@[simp] theorem State.setItem_ticketCounter (s : State) (n : Nat) (x : Item) : (s.setItem n x).ticketCounter = s.ticketCounter := rfl
@[simp] theorem State.setItem_fireCount (s : State) (n : Nat) (x : Item) : (s.setItem n x).fireCount = s.fireCount := rfl
@[simp] theorem State.setItem_risesDue (s : State) (n : Nat) (x : Item) : (s.setItem n x).risesDue = s.risesDue := rfl
@[simp] theorem State.setItem_stations (s : State) (n : Nat) (x : Item) : (s.setItem n x).stations = s.stations := rfl
@[simp] theorem State.setItem_lanes (s : State) (n : Nat) (x : Item) : (s.setItem n x).lanes = s.lanes := rfl
@[simp] theorem State.setItem_drops (s : State) (n : Nat) (x : Item) : (s.setItem n x).drops = s.drops := rfl
@[simp] theorem State.setItem_transfer (s : State) (n : Nat) (x : Item) : (s.setItem n x).transfer = s.transfer := rfl
@[simp] theorem State.setItem_answerSlot (s : State) (n : Nat) (x : Item) : (s.setItem n x).answerSlot = s.answerSlot := rfl
@[simp] theorem State.setItem_alerts (s : State) (n : Nat) (x : Item) : (s.setItem n x).alerts = s.alerts := rfl
@[simp] theorem State.setItem_alertsFull (s : State) (n : Nat) (x : Item) : (s.setItem n x).alertsFull = s.alertsFull := rfl
@[simp] theorem State.setItem_freeDraws (s : State) (n : Nat) (x : Item) : (s.setItem n x).freeDraws = s.freeDraws := rfl
@[simp] theorem State.setItem_pending (s : State) (n : Nat) (x : Item) : (s.setItem n x).pending = s.pending := rfl

/-! ### setTab -/

@[simp] theorem State.setTab_mode (s : State) (n : Nat) (t : Tab) : (s.setTab n t).mode = s.mode := rfl
@[simp] theorem State.setTab_resetPinLow (s : State) (n : Nat) (t : Tab) : (s.setTab n t).resetPinLow = s.resetPinLow := rfl
@[simp] theorem State.setTab_supplyNotGood (s : State) (n : Nat) (t : Tab) : (s.setTab n t).supplyNotGood = s.supplyNotGood := rfl
@[simp] theorem State.setTab_cfgHigh (s : State) (n : Nat) (t : Tab) : (s.setTab n t).cfgHigh = s.cfgHigh := rfl
@[simp] theorem State.setTab_period (s : State) (n : Nat) (t : Tab) : (s.setTab n t).period = s.period := rfl
@[simp] theorem State.setTab_clock (s : State) (n : Nat) (t : Tab) : (s.setTab n t).clock = s.clock := rfl
@[simp] theorem State.setTab_items (s : State) (n : Nat) (t : Tab) : (s.setTab n t).items = s.items := rfl
@[simp] theorem State.setTab_taxRates (s : State) (n : Nat) (t : Tab) : (s.setTab n t).taxRates = s.taxRates := rfl
@[simp] theorem State.setTab_tabCounter (s : State) (n : Nat) (t : Tab) : (s.setTab n t).tabCounter = s.tabCounter := rfl
@[simp] theorem State.setTab_views (s : State) (n : Nat) (t : Tab) : (s.setTab n t).views = s.views := rfl
@[simp] theorem State.setTab_holdTime (s : State) (n : Nat) (t : Tab) : (s.setTab n t).holdTime = s.holdTime := rfl
@[simp] theorem State.setTab_holds (s : State) (n : Nat) (t : Tab) : (s.setTab n t).holds = s.holds := rfl
@[simp] theorem State.setTab_drawers (s : State) (n : Nat) (t : Tab) : (s.setTab n t).drawers = s.drawers := rfl
@[simp] theorem State.setTab_writeOffTotal (s : State) (n : Nat) (t : Tab) : (s.setTab n t).writeOffTotal = s.writeOffTotal := rfl
@[simp] theorem State.setTab_tickets (s : State) (n : Nat) (t : Tab) : (s.setTab n t).tickets = s.tickets := rfl
@[simp] theorem State.setTab_ticketCounter (s : State) (n : Nat) (t : Tab) : (s.setTab n t).ticketCounter = s.ticketCounter := rfl
@[simp] theorem State.setTab_fireCount (s : State) (n : Nat) (t : Tab) : (s.setTab n t).fireCount = s.fireCount := rfl
@[simp] theorem State.setTab_risesDue (s : State) (n : Nat) (t : Tab) : (s.setTab n t).risesDue = s.risesDue := rfl
@[simp] theorem State.setTab_stations (s : State) (n : Nat) (t : Tab) : (s.setTab n t).stations = s.stations := rfl
@[simp] theorem State.setTab_lanes (s : State) (n : Nat) (t : Tab) : (s.setTab n t).lanes = s.lanes := rfl
@[simp] theorem State.setTab_drops (s : State) (n : Nat) (t : Tab) : (s.setTab n t).drops = s.drops := rfl
@[simp] theorem State.setTab_transfer (s : State) (n : Nat) (t : Tab) : (s.setTab n t).transfer = s.transfer := rfl
@[simp] theorem State.setTab_answerSlot (s : State) (n : Nat) (t : Tab) : (s.setTab n t).answerSlot = s.answerSlot := rfl
@[simp] theorem State.setTab_alerts (s : State) (n : Nat) (t : Tab) : (s.setTab n t).alerts = s.alerts := rfl
@[simp] theorem State.setTab_alertsFull (s : State) (n : Nat) (t : Tab) : (s.setTab n t).alertsFull = s.alertsFull := rfl
@[simp] theorem State.setTab_freeDraws (s : State) (n : Nat) (t : Tab) : (s.setTab n t).freeDraws = s.freeDraws := rfl
@[simp] theorem State.setTab_pending (s : State) (n : Nat) (t : Tab) : (s.setTab n t).pending = s.pending := rfl

/-! ### editTab -/

@[simp] theorem State.editTab_mode (s : State) (n : Nat) (f : Tab → Tab) : (s.editTab n f).mode = s.mode := rfl
@[simp] theorem State.editTab_resetPinLow (s : State) (n : Nat) (f : Tab → Tab) : (s.editTab n f).resetPinLow = s.resetPinLow := rfl
@[simp] theorem State.editTab_supplyNotGood (s : State) (n : Nat) (f : Tab → Tab) : (s.editTab n f).supplyNotGood = s.supplyNotGood := rfl
@[simp] theorem State.editTab_cfgHigh (s : State) (n : Nat) (f : Tab → Tab) : (s.editTab n f).cfgHigh = s.cfgHigh := rfl
@[simp] theorem State.editTab_period (s : State) (n : Nat) (f : Tab → Tab) : (s.editTab n f).period = s.period := rfl
@[simp] theorem State.editTab_clock (s : State) (n : Nat) (f : Tab → Tab) : (s.editTab n f).clock = s.clock := rfl
@[simp] theorem State.editTab_items (s : State) (n : Nat) (f : Tab → Tab) : (s.editTab n f).items = s.items := rfl
@[simp] theorem State.editTab_taxRates (s : State) (n : Nat) (f : Tab → Tab) : (s.editTab n f).taxRates = s.taxRates := rfl
@[simp] theorem State.editTab_tabCounter (s : State) (n : Nat) (f : Tab → Tab) : (s.editTab n f).tabCounter = s.tabCounter := rfl
@[simp] theorem State.editTab_views (s : State) (n : Nat) (f : Tab → Tab) : (s.editTab n f).views = s.views := rfl
@[simp] theorem State.editTab_holdTime (s : State) (n : Nat) (f : Tab → Tab) : (s.editTab n f).holdTime = s.holdTime := rfl
@[simp] theorem State.editTab_holds (s : State) (n : Nat) (f : Tab → Tab) : (s.editTab n f).holds = s.holds := rfl
@[simp] theorem State.editTab_drawers (s : State) (n : Nat) (f : Tab → Tab) : (s.editTab n f).drawers = s.drawers := rfl
@[simp] theorem State.editTab_writeOffTotal (s : State) (n : Nat) (f : Tab → Tab) : (s.editTab n f).writeOffTotal = s.writeOffTotal := rfl
@[simp] theorem State.editTab_tickets (s : State) (n : Nat) (f : Tab → Tab) : (s.editTab n f).tickets = s.tickets := rfl
@[simp] theorem State.editTab_ticketCounter (s : State) (n : Nat) (f : Tab → Tab) : (s.editTab n f).ticketCounter = s.ticketCounter := rfl
@[simp] theorem State.editTab_fireCount (s : State) (n : Nat) (f : Tab → Tab) : (s.editTab n f).fireCount = s.fireCount := rfl
@[simp] theorem State.editTab_risesDue (s : State) (n : Nat) (f : Tab → Tab) : (s.editTab n f).risesDue = s.risesDue := rfl
@[simp] theorem State.editTab_stations (s : State) (n : Nat) (f : Tab → Tab) : (s.editTab n f).stations = s.stations := rfl
@[simp] theorem State.editTab_lanes (s : State) (n : Nat) (f : Tab → Tab) : (s.editTab n f).lanes = s.lanes := rfl
@[simp] theorem State.editTab_drops (s : State) (n : Nat) (f : Tab → Tab) : (s.editTab n f).drops = s.drops := rfl
@[simp] theorem State.editTab_transfer (s : State) (n : Nat) (f : Tab → Tab) : (s.editTab n f).transfer = s.transfer := rfl
@[simp] theorem State.editTab_answerSlot (s : State) (n : Nat) (f : Tab → Tab) : (s.editTab n f).answerSlot = s.answerSlot := rfl
@[simp] theorem State.editTab_alerts (s : State) (n : Nat) (f : Tab → Tab) : (s.editTab n f).alerts = s.alerts := rfl
@[simp] theorem State.editTab_alertsFull (s : State) (n : Nat) (f : Tab → Tab) : (s.editTab n f).alertsFull = s.alertsFull := rfl
@[simp] theorem State.editTab_freeDraws (s : State) (n : Nat) (f : Tab → Tab) : (s.editTab n f).freeDraws = s.freeDraws := rfl
@[simp] theorem State.editTab_pending (s : State) (n : Nat) (f : Tab → Tab) : (s.editTab n f).pending = s.pending := rfl

/-! ### editTicket -/

@[simp] theorem State.editTicket_mode (s : State) (n : Nat) (f : Ticket → Ticket) : (s.editTicket n f).mode = s.mode := rfl
@[simp] theorem State.editTicket_resetPinLow (s : State) (n : Nat) (f : Ticket → Ticket) : (s.editTicket n f).resetPinLow = s.resetPinLow := rfl
@[simp] theorem State.editTicket_supplyNotGood (s : State) (n : Nat) (f : Ticket → Ticket) : (s.editTicket n f).supplyNotGood = s.supplyNotGood := rfl
@[simp] theorem State.editTicket_cfgHigh (s : State) (n : Nat) (f : Ticket → Ticket) : (s.editTicket n f).cfgHigh = s.cfgHigh := rfl
@[simp] theorem State.editTicket_period (s : State) (n : Nat) (f : Ticket → Ticket) : (s.editTicket n f).period = s.period := rfl
@[simp] theorem State.editTicket_clock (s : State) (n : Nat) (f : Ticket → Ticket) : (s.editTicket n f).clock = s.clock := rfl
@[simp] theorem State.editTicket_items (s : State) (n : Nat) (f : Ticket → Ticket) : (s.editTicket n f).items = s.items := rfl
@[simp] theorem State.editTicket_taxRates (s : State) (n : Nat) (f : Ticket → Ticket) : (s.editTicket n f).taxRates = s.taxRates := rfl
@[simp] theorem State.editTicket_tabs (s : State) (n : Nat) (f : Ticket → Ticket) : (s.editTicket n f).tabs = s.tabs := rfl
@[simp] theorem State.editTicket_tabCounter (s : State) (n : Nat) (f : Ticket → Ticket) : (s.editTicket n f).tabCounter = s.tabCounter := rfl
@[simp] theorem State.editTicket_views (s : State) (n : Nat) (f : Ticket → Ticket) : (s.editTicket n f).views = s.views := rfl
@[simp] theorem State.editTicket_holdTime (s : State) (n : Nat) (f : Ticket → Ticket) : (s.editTicket n f).holdTime = s.holdTime := rfl
@[simp] theorem State.editTicket_holds (s : State) (n : Nat) (f : Ticket → Ticket) : (s.editTicket n f).holds = s.holds := rfl
@[simp] theorem State.editTicket_drawers (s : State) (n : Nat) (f : Ticket → Ticket) : (s.editTicket n f).drawers = s.drawers := rfl
@[simp] theorem State.editTicket_writeOffTotal (s : State) (n : Nat) (f : Ticket → Ticket) : (s.editTicket n f).writeOffTotal = s.writeOffTotal := rfl
@[simp] theorem State.editTicket_ticketCounter (s : State) (n : Nat) (f : Ticket → Ticket) : (s.editTicket n f).ticketCounter = s.ticketCounter := rfl
@[simp] theorem State.editTicket_fireCount (s : State) (n : Nat) (f : Ticket → Ticket) : (s.editTicket n f).fireCount = s.fireCount := rfl
@[simp] theorem State.editTicket_risesDue (s : State) (n : Nat) (f : Ticket → Ticket) : (s.editTicket n f).risesDue = s.risesDue := rfl
@[simp] theorem State.editTicket_stations (s : State) (n : Nat) (f : Ticket → Ticket) : (s.editTicket n f).stations = s.stations := rfl
@[simp] theorem State.editTicket_lanes (s : State) (n : Nat) (f : Ticket → Ticket) : (s.editTicket n f).lanes = s.lanes := rfl
@[simp] theorem State.editTicket_drops (s : State) (n : Nat) (f : Ticket → Ticket) : (s.editTicket n f).drops = s.drops := rfl
@[simp] theorem State.editTicket_transfer (s : State) (n : Nat) (f : Ticket → Ticket) : (s.editTicket n f).transfer = s.transfer := rfl
@[simp] theorem State.editTicket_answerSlot (s : State) (n : Nat) (f : Ticket → Ticket) : (s.editTicket n f).answerSlot = s.answerSlot := rfl
@[simp] theorem State.editTicket_alerts (s : State) (n : Nat) (f : Ticket → Ticket) : (s.editTicket n f).alerts = s.alerts := rfl
@[simp] theorem State.editTicket_alertsFull (s : State) (n : Nat) (f : Ticket → Ticket) : (s.editTicket n f).alertsFull = s.alertsFull := rfl
@[simp] theorem State.editTicket_freeDraws (s : State) (n : Nat) (f : Ticket → Ticket) : (s.editTicket n f).freeDraws = s.freeDraws := rfl
@[simp] theorem State.editTicket_pending (s : State) (n : Nat) (f : Ticket → Ticket) : (s.editTicket n f).pending = s.pending := rfl

end Sys2Proof.Machine
end

