-- ==== Sys2Proof/Laws/Tables.lean ====
section
/-! SUPPORT. Laws/Tables.lean: reading a table after it is written: `find` after `put`, `erase` and `edit`, and that each keeps
the numbers rising. -/

namespace Sys2Proof.Machine

variable {α : Type}

@[simp] theorem Table.find_nil (n : Nat) : Table.find ([] : Table α) n = none := rfl

theorem Table.find_cons (k : Nat) (v : α) (rest : Table α) (n : Nat) :
    Table.find ((k, v) :: rest) n = if k = n then some v else Table.find rest n := rfl

@[simp] theorem Table.find_put_same (m : Table α) (n : Nat) (x : α) : (m.put n x).find n = some x := by
  induction m with
  | nil => simp [Table.put, Table.find]
  | cons e rest ih =>
    obtain ⟨k, v⟩ := e
    simp only [Table.put]
    split
    · simp [Table.find]
    · split
      · simp [Table.find]
      · rename_i h1 h2
        simp [Table.find, Ne.symm h2, ih]

@[simp] theorem Table.find_put_other (m : Table α) (n j : Nat) (x : α) (h : j ≠ n) : (m.put n x).find j = m.find j := by
  induction m with
  | nil => simp [Table.put, Table.find, h.symm]
  | cons e rest ih =>
    obtain ⟨k, v⟩ := e
    simp only [Table.put]
    split
    · simp [Table.find, h.symm]
    · split
      · rename_i h1 h2
        subst h2
        simp [Table.find, h.symm]
      · simp [Table.find, ih]

@[simp] theorem Table.find_erase_same (m : Table α) (n : Nat) : (m.erase n).find n = none := by
  induction m with
  | nil => rfl
  | cons e rest ih =>
    obtain ⟨k, v⟩ := e
    simp only [Table.erase] at ih
    by_cases h : k = n
    · simp [Table.erase, h, ih]
    · simp [Table.erase, h, Table.find, ih]

@[simp] theorem Table.find_erase_other (m : Table α) (n j : Nat) (h : j ≠ n) : (m.erase n).find j = m.find j := by
  induction m with
  | nil => rfl
  | cons e rest ih =>
    obtain ⟨k, v⟩ := e
    simp only [Table.erase] at ih
    by_cases hk : k = n
    · subst hk
      simp [Table.erase, Table.find, h.symm, ih]
    · simp [Table.erase, hk, Table.find, ih]

theorem Table.find_edit (m : Table α) (n j : Nat) (f : α → α) :
    (m.edit n f).find j = if j = n then (m.find j).map f else m.find j := by
  induction m with
  | nil => simp [Table.edit, Table.find]
  | cons e rest ih =>
    obtain ⟨k, v⟩ := e
    simp only [Table.edit] at ih
    by_cases hk : k = n <;> by_cases hj : j = n <;> by_cases hkj : k = j <;> simp_all [Table.edit, Table.find]

@[simp] theorem Table.find_edit_same (m : Table α) (n : Nat) (f : α → α) : (m.edit n f).find n = (m.find n).map f := by
  simp [Table.find_edit]

@[simp] theorem Table.find_edit_other (m : Table α) (n j : Nat) (f : α → α) (h : j ≠ n) :
    (m.edit n f).find j = m.find j := by
  simp [Table.find_edit, h]

@[simp] theorem Table.keys_edit (m : Table α) (n : Nat) (f : α → α) : (m.edit n f).map Prod.fst = m.map Prod.fst := by
  simp only [Table.edit, List.map_map]
  apply List.map_congr_left
  intro e _
  simp only [Function.comp]
  split <;> rfl

@[simp] theorem Table.length_edit (m : Table α) (n : Nat) (f : α → α) : (m.edit n f).length = m.length := by
  simp [Table.edit]

@[simp] theorem Table.edit_nil (n : Nat) (f : α → α) : Table.edit ([] : Table α) n f = [] := rfl

@[simp] theorem Table.erase_nil (n : Nat) : Table.erase ([] : Table α) n = [] := rfl

theorem Table.find_some_mem {m : Table α} {n : Nat} {x : α} (h : m.find n = some x) : (n, x) ∈ m := by
  induction m with
  | nil => simp at h
  | cons e rest ih =>
    obtain ⟨k, v⟩ := e
    simp only [Table.find] at h
    split at h
    · rename_i hk; subst hk; simp at h; simp [h]
    · exact List.mem_cons_of_mem _ (ih h)

theorem Table.find_eq_none {m : Table α} {n : Nat} : m.find n = none ↔ n ∉ m.map Prod.fst := by
  induction m with
  | nil => simp
  | cons e rest ih =>
    obtain ⟨k, v⟩ := e
    simp only [Table.find, List.map_cons, List.mem_cons]
    split
    · rename_i h; simp [h]
    · rename_i h; simp [ih, Ne.symm h]

theorem Table.mem_put {m : Table α} {n : Nat} {x : α} {e : Nat × α} (h : e ∈ m.put n x) : e = (n, x) ∨ e ∈ m := by
  induction m with
  | nil => simpa [Table.put] using h
  | cons d rest ih =>
    obtain ⟨k, v⟩ := d
    simp only [Table.put] at h
    split at h
    · simpa using h
    · split at h
      · simp only [List.mem_cons] at h ⊢
        tauto
      · simp only [List.mem_cons] at h ⊢
        rcases h with h | h
        · exact .inr (.inl h)
        · rcases ih h with h | h
          · exact .inl h
          · exact .inr (.inr h)

/-- `put` keeps the numbers rising. -/
theorem Table.Rising.put {m : Table α} (h : m.Rising) (n : Nat) (x : α) : (Table.put m n x).Rising := by
  induction m with
  | nil => simp [Table.put, Table.Rising]
  | cons e rest ih =>
    obtain ⟨k, v⟩ := e
    simp only [Table.Rising, List.map_cons, List.pairwise_cons] at h
    have ih' := ih h.2
    simp only [Table.put]
    split
    · rename_i hnk
      simp only [Table.Rising, List.map_cons, List.pairwise_cons]
      refine ⟨?_, h.1, h.2⟩
      intro a ha
      simp only [List.mem_cons] at ha
      rcases ha with ha | ha
      · omega
      · have := h.1 a ha; omega
    · split
      · rename_i h1 h2
        subst h2
        simp only [Table.Rising, List.map_cons, List.pairwise_cons]
        exact h
      · rename_i h1 h2
        simp only [Table.Rising, List.map_cons, List.pairwise_cons]
        refine ⟨?_, ih'⟩
        intro a ha
        simp only [List.mem_map] at ha
        obtain ⟨e, he, rfl⟩ := ha
        rcases Table.mem_put he with he | he
        · subst he; simp only; omega
        · exact h.1 _ (List.mem_map_of_mem he)

/-- `erase` keeps the numbers rising. -/
theorem Table.Rising.erase {m : Table α} (h : m.Rising) (n : Nat) : (Table.erase m n).Rising :=
  List.Pairwise.sublist (List.filter_sublist.map _) h

/-- `edit` keeps the numbers rising. -/
theorem Table.Rising.edit {m : Table α} (h : m.Rising) (n : Nat) (f : α → α) : (Table.edit m n f).Rising := by
  simpa [Table.Rising] using h

/-- A table with a number among its rising numbers keeps its length when that number's record is put again. -/
theorem Table.length_put_present {m : Table α} (h : m.Rising) {n : Nat} {y : α} (hn : m.find n = some y) (x : α) :
    (Table.put m n x).length = m.length := by
  induction m with
  | nil => simp at hn
  | cons e rest ih =>
    obtain ⟨k, v⟩ := e
    simp only [Table.Rising, List.map_cons, List.pairwise_cons] at h
    simp only [Table.put]
    split
    · rename_i hnk
      have hm := Table.find_some_mem hn
      simp only [List.mem_cons, Prod.mk.injEq] at hm
      rcases hm with hm | hm
      · omega
      · have := h.1 n (by simpa using ⟨y, hm⟩); omega
    · split
      · simp
      · rename_i h1 h2
        simp only [Table.find, Ne.symm h2, if_false] at hn
        simp [ih h.2 hn]

/-- A put adds at most one record. -/
theorem Table.length_put_le (m : Table α) (n : Nat) (x : α) : (Table.put m n x).length ≤ m.length + 1 := by
  induction m with
  | nil => simp [Table.put]
  | cons e rest ih =>
    obtain ⟨k, v⟩ := e
    simp only [Table.put]
    split
    · simp
    · split
      · simp
      · simp; omega

/-- With no number twice, a record is found exactly when it stands in the table. -/
theorem Table.find_iff_mem {m : Table α} (h : (m.map Prod.fst).Nodup) (n : Nat) (v : α) : m.find n = some v ↔ (n, v) ∈ m := by
  induction m with
  | nil => simp
  | cons e r ih =>
    obtain ⟨k, x⟩ := e
    rw [List.map_cons, List.nodup_cons] at h
    simp only [Table.find, List.mem_cons, Prod.mk.injEq]
    split
    · rename_i hk; subst hk
      constructor
      · intro h; simp at h; exact .inl ⟨rfl, h.symm⟩
      · rintro (⟨-, h'⟩ | h')
        · simp [h']
        · exact absurd (List.mem_map_of_mem (f := Prod.fst) h') h.1
    · rename_i hk
      rw [ih h.2]
      constructor
      · exact .inr
      · rintro (⟨h', -⟩ | h')
        · exact absurd h'.symm hk
        · exact h'

theorem Table.find_none_iff {m : Table α} (n : Nat) : m.find n = none ↔ ∀ v, (n, v) ∉ m := by
  induction m with
  | nil => simp
  | cons e r ih =>
    obtain ⟨k, x⟩ := e
    simp only [Table.find, List.mem_cons, Prod.mk.injEq]
    split
    · rename_i hk
      subst hk
      simp only [reduceCtorEq, false_iff, not_forall, not_not]
      exact ⟨x, Or.inl ⟨trivial, rfl⟩⟩
    · rename_i hk
      rw [ih]
      exact forall_congr' fun v => by simp [Ne.symm hk]

end Sys2Proof.Machine
end

