-- ==== Sys2Proof/Laws/Access.lean ====
section
/-! SUPPORT. Laws/Access.lean: what each accessor of State reads after each update: the record just stored, or what it read
before. -/

namespace Sys2Proof.Machine

/-! ### Numbers and their places -/

theorem isDrop_iff (n : Nat) : isDrop n = true ↔ 1 ≤ n ∧ n ≤ 32 := by simp [isDrop]

theorem isItemNumber_iff (n : Nat) : isItemNumber n = true ↔ 1 ≤ n ∧ n ≤ 511 := by simp [isItemNumber]

/-- A lane's drops are drops. -/
theorem isDrop_dropAt (l : Fin 4) {a : Nat} (h : 1 ≤ a ∧ a ≤ 8) : isDrop (dropAt l a) = true := by
  rw [isDrop_iff]
  have := l.isLt
  simp only [dropAt]
  omega

/-- The lane of a drop at an address of a lane. -/
theorem laneOf_dropAt (l : Fin 4) {a : Nat} (h : 1 ≤ a ∧ a ≤ 8) : laneOf (dropAt l a) = l := by
  have := l.isLt
  simp only [laneOf, dropAt]
  apply Fin.ext
  simp only [Fin.val_ofNat]
  omega

/-! ### The place just written -/

theorem dropIx_ne {d e : Nat} (hd : isDrop d = true) (he : isDrop e = true) (h : e ≠ d) : (dropIx e).val ≠ (dropIx d).val := by
  simp only [isDrop, Bool.and_eq_true, decide_eq_true_eq] at hd he
  simp only [dropIx, Fin.ofNat]
  omega

@[simp] theorem State.drop_setDrop_same (s : State) (d : Nat) (x : Drop) (h : isDrop d = true) : (s.setDrop d x).drop d = x := by
  simp [State.drop, State.setDrop, h]

@[simp] theorem State.drop_setDrop_other (s : State) (d e : Nat) (x : Drop) (h : e ≠ d) : (s.setDrop d x).drop e = s.drop e := by
  by_cases hd : isDrop d = true <;> by_cases he : isDrop e = true <;> simp [State.drop, State.setDrop, hd, he]
  exact Vector.getElem_set_ne (h := (Ne.symm (dropIx_ne hd he h))) ..

theorem State.setDrop_noDrop (s : State) (d : Nat) (x : Drop) (h : isDrop d = false) : s.setDrop d x = s := by
  simp [State.setDrop, h]

@[simp] theorem State.station_setStation_same (s : State) (d : Nat) (x : Station) (h : isDrop d = true) :
    (s.setStation d x).station d = x := by
  simp [State.station, State.setStation, h]

@[simp] theorem State.station_setStation_other (s : State) (d e : Nat) (x : Station) (h : e ≠ d) :
    (s.setStation d x).station e = s.station e := by
  by_cases hd : isDrop d = true <;> by_cases he : isDrop e = true <;> simp [State.station, State.setStation, hd, he]
  exact Vector.getElem_set_ne (h := (Ne.symm (dropIx_ne hd he h))) ..

theorem State.setStation_noDrop (s : State) (d : Nat) (x : Station) (h : isDrop d = false) : s.setStation d x = s := by
  simp [State.setStation, h]

@[simp] theorem State.lane_setLane_same (s : State) (l : Fin 4) (x : Lane) : (s.setLane l x).lane l = x := by
  simp [State.lane, State.setLane]

@[simp] theorem State.lane_setLane_other (s : State) (l k : Fin 4) (x : Lane) (h : k ≠ l) : (s.setLane l x).lane k = s.lane k := by
  simp only [State.lane, State.setLane, Fin.getElem_fin]
  exact Vector.getElem_set_ne (h := fun e => h (Fin.ext e.symm)) ..

@[simp] theorem State.view_setView_same (s : State) (n : Nat) (v : Option View) : (s.setView n v).view n = v := by
  simp [State.view, State.setView]

theorem tillIx_ne {n m : Nat} (hn : n ≤ 32) (hm : m ≤ 32) (h : m ≠ n) : (tillIx n).val ≠ (tillIx m).val := by
  simp only [tillIx, Fin.ofNat]
  omega

@[simp] theorem State.view_setView_other (s : State) (n m : Nat) (v : Option View) (hn : n ≤ 32) (hm : m ≤ 32) (h : m ≠ n) :
    (s.setView n v).view m = s.view m := by
  simp only [State.view, State.setView, Fin.getElem_fin]
  exact Vector.getElem_set_ne (h := tillIx_ne hn hm h) ..

@[simp] theorem State.hold_setHold_same (s : State) (n : Nat) (v : Option HoldRef) : (s.setHold n v).hold n = v := by
  simp [State.hold, State.setHold]

@[simp] theorem State.hold_setHold_other (s : State) (n m : Nat) (v : Option HoldRef) (hn : n ≤ 32) (hm : m ≤ 32) (h : m ≠ n) :
    (s.setHold n v).hold m = s.hold m := by
  simp only [State.hold, State.setHold, Fin.getElem_fin]
  exact Vector.getElem_set_ne (h := tillIx_ne hn hm h) ..

@[simp] theorem State.drawer_setDrawer_same (s : State) (n : Nat) (v : Drawer) : (s.setDrawer n v).drawer n = v := by
  simp [State.drawer, State.setDrawer]

@[simp] theorem State.drawer_setDrawer_other (s : State) (n m : Nat) (v : Drawer) (hn : n ≤ 32) (hm : m ≤ 32) (h : m ≠ n) :
    (s.setDrawer n v).drawer m = s.drawer m := by
  simp only [State.drawer, State.setDrawer, Fin.getElem_fin]
  exact Vector.getElem_set_ne (h := tillIx_ne hn hm h) ..

@[simp] theorem State.item_setItem_same (s : State) (n : Nat) (x : Item) (h : isItemNumber n = true) :
    (s.setItem n x).item n = some x := by
  simp [State.item, State.setItem, h]

@[simp] theorem State.item_setItem_other (s : State) (n m : Nat) (x : Item) (h : m ≠ n) : (s.setItem n x).item m = s.item m := by
  simp [State.item, State.setItem, h]

@[simp] theorem State.tab_setTab_same (s : State) (n : Nat) (t : Tab) (h : 1 ≤ n ∧ n ≤ Config.maxTabNumber) :
    (s.setTab n t).tab n = some t := by
  simp [State.tab, State.setTab, h]

@[simp] theorem State.tab_setTab_other (s : State) (n m : Nat) (t : Tab) (h : m ≠ n) : (s.setTab n t).tab m = s.tab m := by
  simp [State.tab, State.setTab, h]

@[simp] theorem State.ticket_editTicket_same (s : State) (n : Nat) (f : Ticket → Ticket) :
    (s.editTicket n f).ticket n = (s.ticket n).map f := by
  simp [State.ticket, State.editTicket]

@[simp] theorem State.ticket_editTicket_other (s : State) (n m : Nat) (f : Ticket → Ticket) (h : m ≠ n) :
    (s.editTicket n f).ticket m = s.ticket m := by
  simp [State.ticket, State.editTicket, h]

/-! ### Other places -/

@[simp] theorem State.station_setDrop (s : State) (d : Nat) (x : Drop) (e : Nat) : (s.setDrop d x).station e = s.station e := rfl
@[simp] theorem State.lane_setDrop (s : State) (d : Nat) (x : Drop) (k : Fin 4) : (s.setDrop d x).lane k = s.lane k := rfl
@[simp] theorem State.view_setDrop (s : State) (d : Nat) (x : Drop) (e : Nat) : (s.setDrop d x).view e = s.view e := rfl
@[simp] theorem State.hold_setDrop (s : State) (d : Nat) (x : Drop) (e : Nat) : (s.setDrop d x).hold e = s.hold e := rfl
@[simp] theorem State.drawer_setDrop (s : State) (d : Nat) (x : Drop) (e : Nat) : (s.setDrop d x).drawer e = s.drawer e := rfl
@[simp] theorem State.taxRate_setDrop (s : State) (d : Nat) (x : Drop) (e : Nat) : (s.setDrop d x).taxRate e = s.taxRate e := rfl
@[simp] theorem State.item_setDrop (s : State) (d : Nat) (x : Drop) (e : Nat) : (s.setDrop d x).item e = s.item e := rfl
@[simp] theorem State.tab_setDrop (s : State) (d : Nat) (x : Drop) (e : Nat) : (s.setDrop d x).tab e = s.tab e := rfl
@[simp] theorem State.ticket_setDrop (s : State) (d : Nat) (x : Drop) (e : Nat) : (s.setDrop d x).ticket e = s.ticket e := rfl
@[simp] theorem State.roleOf_setDrop (s : State) (d : Nat) (x : Drop) (e : Nat) : (s.setDrop d x).roleOf e = s.roleOf e := rfl
@[simp] theorem State.isTill_setDrop (s : State) (d : Nat) (x : Drop) (e : Nat) : (s.setDrop d x).isTill e = s.isTill e := rfl
@[simp] theorem State.isStation_setDrop (s : State) (d : Nat) (x : Drop) (e : Nat) : (s.setDrop d x).isStation e = s.isStation e := rfl
@[simp] theorem State.sender_setDrop (s : State) (d : Nat) (x : Drop) (e : Nat) : (s.setDrop d x).sender e = s.sender e := rfl
@[simp] theorem State.drop_setStation (s : State) (d : Nat) (x : Station) (e : Nat) : (s.setStation d x).drop e = s.drop e := rfl
@[simp] theorem State.lane_setStation (s : State) (d : Nat) (x : Station) (k : Fin 4) : (s.setStation d x).lane k = s.lane k := rfl
@[simp] theorem State.view_setStation (s : State) (d : Nat) (x : Station) (e : Nat) : (s.setStation d x).view e = s.view e := rfl
@[simp] theorem State.hold_setStation (s : State) (d : Nat) (x : Station) (e : Nat) : (s.setStation d x).hold e = s.hold e := rfl
@[simp] theorem State.drawer_setStation (s : State) (d : Nat) (x : Station) (e : Nat) : (s.setStation d x).drawer e = s.drawer e := rfl
@[simp] theorem State.taxRate_setStation (s : State) (d : Nat) (x : Station) (e : Nat) : (s.setStation d x).taxRate e = s.taxRate e := rfl
@[simp] theorem State.item_setStation (s : State) (d : Nat) (x : Station) (e : Nat) : (s.setStation d x).item e = s.item e := rfl
@[simp] theorem State.tab_setStation (s : State) (d : Nat) (x : Station) (e : Nat) : (s.setStation d x).tab e = s.tab e := rfl
@[simp] theorem State.ticket_setStation (s : State) (d : Nat) (x : Station) (e : Nat) : (s.setStation d x).ticket e = s.ticket e := rfl
@[simp] theorem State.roleOf_setStation (s : State) (d : Nat) (x : Station) (e : Nat) : (s.setStation d x).roleOf e = s.roleOf e := rfl
@[simp] theorem State.isTill_setStation (s : State) (d : Nat) (x : Station) (e : Nat) : (s.setStation d x).isTill e = s.isTill e := rfl
@[simp] theorem State.isStation_setStation (s : State) (d : Nat) (x : Station) (e : Nat) : (s.setStation d x).isStation e = s.isStation e := rfl
@[simp] theorem State.sender_setStation (s : State) (d : Nat) (x : Station) (e : Nat) : (s.setStation d x).sender e = s.sender e := rfl
@[simp] theorem State.drop_setLane (s : State) (l : Fin 4) (x : Lane) (e : Nat) : (s.setLane l x).drop e = s.drop e := rfl
@[simp] theorem State.station_setLane (s : State) (l : Fin 4) (x : Lane) (e : Nat) : (s.setLane l x).station e = s.station e := rfl
@[simp] theorem State.view_setLane (s : State) (l : Fin 4) (x : Lane) (e : Nat) : (s.setLane l x).view e = s.view e := rfl
@[simp] theorem State.hold_setLane (s : State) (l : Fin 4) (x : Lane) (e : Nat) : (s.setLane l x).hold e = s.hold e := rfl
@[simp] theorem State.drawer_setLane (s : State) (l : Fin 4) (x : Lane) (e : Nat) : (s.setLane l x).drawer e = s.drawer e := rfl
@[simp] theorem State.taxRate_setLane (s : State) (l : Fin 4) (x : Lane) (e : Nat) : (s.setLane l x).taxRate e = s.taxRate e := rfl
@[simp] theorem State.item_setLane (s : State) (l : Fin 4) (x : Lane) (e : Nat) : (s.setLane l x).item e = s.item e := rfl
@[simp] theorem State.tab_setLane (s : State) (l : Fin 4) (x : Lane) (e : Nat) : (s.setLane l x).tab e = s.tab e := rfl
@[simp] theorem State.ticket_setLane (s : State) (l : Fin 4) (x : Lane) (e : Nat) : (s.setLane l x).ticket e = s.ticket e := rfl
@[simp] theorem State.drop_setView (s : State) (n : Nat) (v : Option View) (e : Nat) : (s.setView n v).drop e = s.drop e := rfl
@[simp] theorem State.station_setView (s : State) (n : Nat) (v : Option View) (e : Nat) : (s.setView n v).station e = s.station e := rfl
@[simp] theorem State.lane_setView (s : State) (n : Nat) (v : Option View) (k : Fin 4) : (s.setView n v).lane k = s.lane k := rfl
@[simp] theorem State.hold_setView (s : State) (n : Nat) (v : Option View) (e : Nat) : (s.setView n v).hold e = s.hold e := rfl
@[simp] theorem State.drawer_setView (s : State) (n : Nat) (v : Option View) (e : Nat) : (s.setView n v).drawer e = s.drawer e := rfl
@[simp] theorem State.taxRate_setView (s : State) (n : Nat) (v : Option View) (e : Nat) : (s.setView n v).taxRate e = s.taxRate e := rfl
@[simp] theorem State.item_setView (s : State) (n : Nat) (v : Option View) (e : Nat) : (s.setView n v).item e = s.item e := rfl
@[simp] theorem State.tab_setView (s : State) (n : Nat) (v : Option View) (e : Nat) : (s.setView n v).tab e = s.tab e := rfl
@[simp] theorem State.ticket_setView (s : State) (n : Nat) (v : Option View) (e : Nat) : (s.setView n v).ticket e = s.ticket e := rfl
@[simp] theorem State.roleOf_setView (s : State) (n : Nat) (v : Option View) (e : Nat) : (s.setView n v).roleOf e = s.roleOf e := rfl
@[simp] theorem State.isTill_setView (s : State) (n : Nat) (v : Option View) (e : Nat) : (s.setView n v).isTill e = s.isTill e := rfl
@[simp] theorem State.isStation_setView (s : State) (n : Nat) (v : Option View) (e : Nat) : (s.setView n v).isStation e = s.isStation e := rfl
@[simp] theorem State.sender_setView (s : State) (n : Nat) (v : Option View) (e : Nat) : (s.setView n v).sender e = s.sender e := rfl
@[simp] theorem State.drop_setHold (s : State) (n : Nat) (h : Option HoldRef) (e : Nat) : (s.setHold n h).drop e = s.drop e := rfl
@[simp] theorem State.station_setHold (s : State) (n : Nat) (h : Option HoldRef) (e : Nat) : (s.setHold n h).station e = s.station e := rfl
@[simp] theorem State.lane_setHold (s : State) (n : Nat) (h : Option HoldRef) (k : Fin 4) : (s.setHold n h).lane k = s.lane k := rfl
@[simp] theorem State.view_setHold (s : State) (n : Nat) (h : Option HoldRef) (e : Nat) : (s.setHold n h).view e = s.view e := rfl
@[simp] theorem State.drawer_setHold (s : State) (n : Nat) (h : Option HoldRef) (e : Nat) : (s.setHold n h).drawer e = s.drawer e := rfl
@[simp] theorem State.taxRate_setHold (s : State) (n : Nat) (h : Option HoldRef) (e : Nat) : (s.setHold n h).taxRate e = s.taxRate e := rfl
@[simp] theorem State.item_setHold (s : State) (n : Nat) (h : Option HoldRef) (e : Nat) : (s.setHold n h).item e = s.item e := rfl
@[simp] theorem State.tab_setHold (s : State) (n : Nat) (h : Option HoldRef) (e : Nat) : (s.setHold n h).tab e = s.tab e := rfl
@[simp] theorem State.ticket_setHold (s : State) (n : Nat) (h : Option HoldRef) (e : Nat) : (s.setHold n h).ticket e = s.ticket e := rfl
@[simp] theorem State.roleOf_setHold (s : State) (n : Nat) (h : Option HoldRef) (e : Nat) : (s.setHold n h).roleOf e = s.roleOf e := rfl
@[simp] theorem State.isTill_setHold (s : State) (n : Nat) (h : Option HoldRef) (e : Nat) : (s.setHold n h).isTill e = s.isTill e := rfl
@[simp] theorem State.isStation_setHold (s : State) (n : Nat) (h : Option HoldRef) (e : Nat) : (s.setHold n h).isStation e = s.isStation e := rfl
@[simp] theorem State.sender_setHold (s : State) (n : Nat) (h : Option HoldRef) (e : Nat) : (s.setHold n h).sender e = s.sender e := rfl
@[simp] theorem State.drop_setDrawer (s : State) (n : Nat) (d : Drawer) (e : Nat) : (s.setDrawer n d).drop e = s.drop e := rfl
@[simp] theorem State.station_setDrawer (s : State) (n : Nat) (d : Drawer) (e : Nat) : (s.setDrawer n d).station e = s.station e := rfl
@[simp] theorem State.lane_setDrawer (s : State) (n : Nat) (d : Drawer) (k : Fin 4) : (s.setDrawer n d).lane k = s.lane k := rfl
@[simp] theorem State.view_setDrawer (s : State) (n : Nat) (d : Drawer) (e : Nat) : (s.setDrawer n d).view e = s.view e := rfl
@[simp] theorem State.hold_setDrawer (s : State) (n : Nat) (d : Drawer) (e : Nat) : (s.setDrawer n d).hold e = s.hold e := rfl
@[simp] theorem State.taxRate_setDrawer (s : State) (n : Nat) (d : Drawer) (e : Nat) : (s.setDrawer n d).taxRate e = s.taxRate e := rfl
@[simp] theorem State.item_setDrawer (s : State) (n : Nat) (d : Drawer) (e : Nat) : (s.setDrawer n d).item e = s.item e := rfl
@[simp] theorem State.tab_setDrawer (s : State) (n : Nat) (d : Drawer) (e : Nat) : (s.setDrawer n d).tab e = s.tab e := rfl
@[simp] theorem State.ticket_setDrawer (s : State) (n : Nat) (d : Drawer) (e : Nat) : (s.setDrawer n d).ticket e = s.ticket e := rfl
@[simp] theorem State.roleOf_setDrawer (s : State) (n : Nat) (d : Drawer) (e : Nat) : (s.setDrawer n d).roleOf e = s.roleOf e := rfl
@[simp] theorem State.isTill_setDrawer (s : State) (n : Nat) (d : Drawer) (e : Nat) : (s.setDrawer n d).isTill e = s.isTill e := rfl
@[simp] theorem State.isStation_setDrawer (s : State) (n : Nat) (d : Drawer) (e : Nat) : (s.setDrawer n d).isStation e = s.isStation e := rfl
@[simp] theorem State.sender_setDrawer (s : State) (n : Nat) (d : Drawer) (e : Nat) : (s.setDrawer n d).sender e = s.sender e := rfl
@[simp] theorem State.drop_setTaxRate (s : State) (c r : Nat) (e : Nat) : (s.setTaxRate c r).drop e = s.drop e := rfl
@[simp] theorem State.station_setTaxRate (s : State) (c r : Nat) (e : Nat) : (s.setTaxRate c r).station e = s.station e := rfl
@[simp] theorem State.lane_setTaxRate (s : State) (c r : Nat) (k : Fin 4) : (s.setTaxRate c r).lane k = s.lane k := rfl
@[simp] theorem State.view_setTaxRate (s : State) (c r : Nat) (e : Nat) : (s.setTaxRate c r).view e = s.view e := rfl
@[simp] theorem State.hold_setTaxRate (s : State) (c r : Nat) (e : Nat) : (s.setTaxRate c r).hold e = s.hold e := rfl
@[simp] theorem State.drawer_setTaxRate (s : State) (c r : Nat) (e : Nat) : (s.setTaxRate c r).drawer e = s.drawer e := rfl
@[simp] theorem State.item_setTaxRate (s : State) (c r : Nat) (e : Nat) : (s.setTaxRate c r).item e = s.item e := rfl
@[simp] theorem State.tab_setTaxRate (s : State) (c r : Nat) (e : Nat) : (s.setTaxRate c r).tab e = s.tab e := rfl
@[simp] theorem State.ticket_setTaxRate (s : State) (c r : Nat) (e : Nat) : (s.setTaxRate c r).ticket e = s.ticket e := rfl
@[simp] theorem State.roleOf_setTaxRate (s : State) (c r : Nat) (e : Nat) : (s.setTaxRate c r).roleOf e = s.roleOf e := rfl
@[simp] theorem State.isTill_setTaxRate (s : State) (c r : Nat) (e : Nat) : (s.setTaxRate c r).isTill e = s.isTill e := rfl
@[simp] theorem State.isStation_setTaxRate (s : State) (c r : Nat) (e : Nat) : (s.setTaxRate c r).isStation e = s.isStation e := rfl
@[simp] theorem State.sender_setTaxRate (s : State) (c r : Nat) (e : Nat) : (s.setTaxRate c r).sender e = s.sender e := rfl
@[simp] theorem State.drop_setItem (s : State) (n : Nat) (x : Item) (e : Nat) : (s.setItem n x).drop e = s.drop e := rfl
@[simp] theorem State.station_setItem (s : State) (n : Nat) (x : Item) (e : Nat) : (s.setItem n x).station e = s.station e := rfl
@[simp] theorem State.lane_setItem (s : State) (n : Nat) (x : Item) (k : Fin 4) : (s.setItem n x).lane k = s.lane k := rfl
@[simp] theorem State.view_setItem (s : State) (n : Nat) (x : Item) (e : Nat) : (s.setItem n x).view e = s.view e := rfl
@[simp] theorem State.hold_setItem (s : State) (n : Nat) (x : Item) (e : Nat) : (s.setItem n x).hold e = s.hold e := rfl
@[simp] theorem State.drawer_setItem (s : State) (n : Nat) (x : Item) (e : Nat) : (s.setItem n x).drawer e = s.drawer e := rfl
@[simp] theorem State.taxRate_setItem (s : State) (n : Nat) (x : Item) (e : Nat) : (s.setItem n x).taxRate e = s.taxRate e := rfl
@[simp] theorem State.tab_setItem (s : State) (n : Nat) (x : Item) (e : Nat) : (s.setItem n x).tab e = s.tab e := rfl
@[simp] theorem State.ticket_setItem (s : State) (n : Nat) (x : Item) (e : Nat) : (s.setItem n x).ticket e = s.ticket e := rfl
@[simp] theorem State.roleOf_setItem (s : State) (n : Nat) (x : Item) (e : Nat) : (s.setItem n x).roleOf e = s.roleOf e := rfl
@[simp] theorem State.isTill_setItem (s : State) (n : Nat) (x : Item) (e : Nat) : (s.setItem n x).isTill e = s.isTill e := rfl
@[simp] theorem State.isStation_setItem (s : State) (n : Nat) (x : Item) (e : Nat) : (s.setItem n x).isStation e = s.isStation e := rfl
@[simp] theorem State.sender_setItem (s : State) (n : Nat) (x : Item) (e : Nat) : (s.setItem n x).sender e = s.sender e := rfl
@[simp] theorem State.drop_setTab (s : State) (n : Nat) (t : Tab) (e : Nat) : (s.setTab n t).drop e = s.drop e := rfl
@[simp] theorem State.station_setTab (s : State) (n : Nat) (t : Tab) (e : Nat) : (s.setTab n t).station e = s.station e := rfl
@[simp] theorem State.lane_setTab (s : State) (n : Nat) (t : Tab) (k : Fin 4) : (s.setTab n t).lane k = s.lane k := rfl
@[simp] theorem State.view_setTab (s : State) (n : Nat) (t : Tab) (e : Nat) : (s.setTab n t).view e = s.view e := rfl
@[simp] theorem State.hold_setTab (s : State) (n : Nat) (t : Tab) (e : Nat) : (s.setTab n t).hold e = s.hold e := rfl
@[simp] theorem State.drawer_setTab (s : State) (n : Nat) (t : Tab) (e : Nat) : (s.setTab n t).drawer e = s.drawer e := rfl
@[simp] theorem State.taxRate_setTab (s : State) (n : Nat) (t : Tab) (e : Nat) : (s.setTab n t).taxRate e = s.taxRate e := rfl
@[simp] theorem State.item_setTab (s : State) (n : Nat) (t : Tab) (e : Nat) : (s.setTab n t).item e = s.item e := rfl
@[simp] theorem State.ticket_setTab (s : State) (n : Nat) (t : Tab) (e : Nat) : (s.setTab n t).ticket e = s.ticket e := rfl
@[simp] theorem State.roleOf_setTab (s : State) (n : Nat) (t : Tab) (e : Nat) : (s.setTab n t).roleOf e = s.roleOf e := rfl
@[simp] theorem State.isTill_setTab (s : State) (n : Nat) (t : Tab) (e : Nat) : (s.setTab n t).isTill e = s.isTill e := rfl
@[simp] theorem State.isStation_setTab (s : State) (n : Nat) (t : Tab) (e : Nat) : (s.setTab n t).isStation e = s.isStation e := rfl
@[simp] theorem State.sender_setTab (s : State) (n : Nat) (t : Tab) (e : Nat) : (s.setTab n t).sender e = s.sender e := rfl
@[simp] theorem State.drop_editTab (s : State) (n : Nat) (f : Tab → Tab) (e : Nat) : (s.editTab n f).drop e = s.drop e := rfl
@[simp] theorem State.station_editTab (s : State) (n : Nat) (f : Tab → Tab) (e : Nat) : (s.editTab n f).station e = s.station e := rfl
@[simp] theorem State.lane_editTab (s : State) (n : Nat) (f : Tab → Tab) (k : Fin 4) : (s.editTab n f).lane k = s.lane k := rfl
@[simp] theorem State.view_editTab (s : State) (n : Nat) (f : Tab → Tab) (e : Nat) : (s.editTab n f).view e = s.view e := rfl
@[simp] theorem State.hold_editTab (s : State) (n : Nat) (f : Tab → Tab) (e : Nat) : (s.editTab n f).hold e = s.hold e := rfl
@[simp] theorem State.drawer_editTab (s : State) (n : Nat) (f : Tab → Tab) (e : Nat) : (s.editTab n f).drawer e = s.drawer e := rfl
@[simp] theorem State.taxRate_editTab (s : State) (n : Nat) (f : Tab → Tab) (e : Nat) : (s.editTab n f).taxRate e = s.taxRate e := rfl
@[simp] theorem State.item_editTab (s : State) (n : Nat) (f : Tab → Tab) (e : Nat) : (s.editTab n f).item e = s.item e := rfl
@[simp] theorem State.ticket_editTab (s : State) (n : Nat) (f : Tab → Tab) (e : Nat) : (s.editTab n f).ticket e = s.ticket e := rfl
@[simp] theorem State.roleOf_editTab (s : State) (n : Nat) (f : Tab → Tab) (e : Nat) : (s.editTab n f).roleOf e = s.roleOf e := rfl
@[simp] theorem State.isTill_editTab (s : State) (n : Nat) (f : Tab → Tab) (e : Nat) : (s.editTab n f).isTill e = s.isTill e := rfl
@[simp] theorem State.isStation_editTab (s : State) (n : Nat) (f : Tab → Tab) (e : Nat) : (s.editTab n f).isStation e = s.isStation e := rfl
@[simp] theorem State.sender_editTab (s : State) (n : Nat) (f : Tab → Tab) (e : Nat) : (s.editTab n f).sender e = s.sender e := rfl
@[simp] theorem State.drop_editTicket (s : State) (n : Nat) (f : Ticket → Ticket) (e : Nat) : (s.editTicket n f).drop e = s.drop e := rfl
@[simp] theorem State.station_editTicket (s : State) (n : Nat) (f : Ticket → Ticket) (e : Nat) : (s.editTicket n f).station e = s.station e := rfl
@[simp] theorem State.lane_editTicket (s : State) (n : Nat) (f : Ticket → Ticket) (k : Fin 4) : (s.editTicket n f).lane k = s.lane k := rfl
@[simp] theorem State.view_editTicket (s : State) (n : Nat) (f : Ticket → Ticket) (e : Nat) : (s.editTicket n f).view e = s.view e := rfl
@[simp] theorem State.hold_editTicket (s : State) (n : Nat) (f : Ticket → Ticket) (e : Nat) : (s.editTicket n f).hold e = s.hold e := rfl
@[simp] theorem State.drawer_editTicket (s : State) (n : Nat) (f : Ticket → Ticket) (e : Nat) : (s.editTicket n f).drawer e = s.drawer e := rfl
@[simp] theorem State.taxRate_editTicket (s : State) (n : Nat) (f : Ticket → Ticket) (e : Nat) : (s.editTicket n f).taxRate e = s.taxRate e := rfl
@[simp] theorem State.item_editTicket (s : State) (n : Nat) (f : Ticket → Ticket) (e : Nat) : (s.editTicket n f).item e = s.item e := rfl
@[simp] theorem State.tab_editTicket (s : State) (n : Nat) (f : Ticket → Ticket) (e : Nat) : (s.editTicket n f).tab e = s.tab e := rfl
@[simp] theorem State.roleOf_editTicket (s : State) (n : Nat) (f : Ticket → Ticket) (e : Nat) : (s.editTicket n f).roleOf e = s.roleOf e := rfl
@[simp] theorem State.isTill_editTicket (s : State) (n : Nat) (f : Ticket → Ticket) (e : Nat) : (s.editTicket n f).isTill e = s.isTill e := rfl
@[simp] theorem State.isStation_editTicket (s : State) (n : Nat) (f : Ticket → Ticket) (e : Nat) : (s.editTicket n f).isStation e = s.isStation e := rfl
@[simp] theorem State.sender_editTicket (s : State) (n : Nat) (f : Ticket → Ticket) (e : Nat) : (s.editTicket n f).sender e = s.sender e := rfl

end Sys2Proof.Machine
end

