-- ==== Sys2Proof/Laws/Frames.lean ====
section
/-! SUPPORT. Laws/Frames.lean: what each shared operation leaves alone: one lemma an operation, naming the fields it may
change. -/

namespace Sys2Proof.Machine

/-! ### The relation -/

theorem SameBut.refl (ps : List Part) (s : State) : SameBut ps s s :=
  ⟨fun _ => rfl, fun _ => rfl, fun _ => rfl, fun _ => rfl, fun _ => rfl, fun _ => rfl, fun _ => rfl, fun _ => rfl, fun _ => rfl, fun _ => rfl, fun _ => rfl, fun _ => rfl, fun _ => rfl, fun _ => rfl, fun _ => rfl, fun _ => rfl, fun _ => rfl, fun _ => rfl, fun _ => rfl, fun _ => rfl, fun _ => rfl, fun _ => rfl, fun _ => rfl, fun _ => rfl, fun _ => rfl, fun _ => rfl, fun _ => rfl, fun _ => rfl⟩

theorem SameBut.trans {ps : List Part} {s t u : State} (a : SameBut ps s t) (b : SameBut ps t u) : SameBut ps s u :=
  ⟨fun h => (b.mode h).trans (a.mode h),
    fun h => (b.resetPinLow h).trans (a.resetPinLow h),
    fun h => (b.supplyNotGood h).trans (a.supplyNotGood h),
    fun h => (b.cfgHigh h).trans (a.cfgHigh h),
    fun h => (b.period h).trans (a.period h),
    fun h => (b.clock h).trans (a.clock h),
    fun h => (b.items h).trans (a.items h),
    fun h => (b.taxRates h).trans (a.taxRates h),
    fun h => (b.tabs h).trans (a.tabs h),
    fun h => (b.tabCounter h).trans (a.tabCounter h),
    fun h => (b.views h).trans (a.views h),
    fun h => (b.holdTime h).trans (a.holdTime h),
    fun h => (b.holds h).trans (a.holds h),
    fun h => (b.drawers h).trans (a.drawers h),
    fun h => (b.writeOffTotal h).trans (a.writeOffTotal h),
    fun h => (b.tickets h).trans (a.tickets h),
    fun h => (b.ticketCounter h).trans (a.ticketCounter h),
    fun h => (b.fireCount h).trans (a.fireCount h),
    fun h => (b.risesDue h).trans (a.risesDue h),
    fun h => (b.stations h).trans (a.stations h),
    fun h => (b.lanes h).trans (a.lanes h),
    fun h => (b.drops h).trans (a.drops h),
    fun h => (b.transfer h).trans (a.transfer h),
    fun h => (b.answerSlot h).trans (a.answerSlot h),
    fun h => (b.alerts h).trans (a.alerts h),
    fun h => (b.alertsFull h).trans (a.alertsFull h),
    fun h => (b.freeDraws h).trans (a.freeDraws h),
    fun h => (b.pending h).trans (a.pending h)⟩

theorem SameBut.mono {ps qs : List Part} {s t : State} (a : SameBut ps s t) (hs : ps ⊆ qs) : SameBut qs s t :=
  ⟨fun h => a.mode fun m => h (hs m),
    fun h => a.resetPinLow fun m => h (hs m),
    fun h => a.supplyNotGood fun m => h (hs m),
    fun h => a.cfgHigh fun m => h (hs m),
    fun h => a.period fun m => h (hs m),
    fun h => a.clock fun m => h (hs m),
    fun h => a.items fun m => h (hs m),
    fun h => a.taxRates fun m => h (hs m),
    fun h => a.tabs fun m => h (hs m),
    fun h => a.tabCounter fun m => h (hs m),
    fun h => a.views fun m => h (hs m),
    fun h => a.holdTime fun m => h (hs m),
    fun h => a.holds fun m => h (hs m),
    fun h => a.drawers fun m => h (hs m),
    fun h => a.writeOffTotal fun m => h (hs m),
    fun h => a.tickets fun m => h (hs m),
    fun h => a.ticketCounter fun m => h (hs m),
    fun h => a.fireCount fun m => h (hs m),
    fun h => a.risesDue fun m => h (hs m),
    fun h => a.stations fun m => h (hs m),
    fun h => a.lanes fun m => h (hs m),
    fun h => a.drops fun m => h (hs m),
    fun h => a.transfer fun m => h (hs m),
    fun h => a.answerSlot fun m => h (hs m),
    fun h => a.alerts fun m => h (hs m),
    fun h => a.alertsFull fun m => h (hs m),
    fun h => a.freeDraws fun m => h (hs m),
    fun h => a.pending fun m => h (hs m)⟩

theorem SameBut.ite {ps : List Part} {s t u : State} {c : Prop} [Decidable c] (a : c → SameBut ps s t) (b : ¬c → SameBut ps s u) :
    SameBut ps s (if c then t else u) := by
  split
  · exact a ‹_›
  · exact b ‹_›

theorem SameBut.foldl {ps : List Part} {β : Type} {f : State → β → State} (h : ∀ s x, SameBut ps s (f s x)) (l : List β) (s : State) :
    SameBut ps s (l.foldl f s) := by
  induction l generalizing s with
  | nil => exact SameBut.refl ps s
  | cons x rest ih => exact (h s x).trans (ih (f s x))

/-- Two changes, each with its own fields. -/
theorem SameBut.step {ps qs rs : List Part} {s t u : State} (a : SameBut ps s t) (b : SameBut qs t u) (hp : ps ⊆ rs) (hq : qs ⊆ rs) :
    SameBut rs s u :=
  (a.mono hp).trans (b.mono hq)

/-! ### What an accessor reads when its table is the same -/

theorem State.drop_of {s t : State} (h : t.drops = s.drops) (d : Nat) : t.drop d = s.drop d := by simp only [State.drop, h]
theorem State.station_of {s t : State} (h : t.stations = s.stations) (d : Nat) : t.station d = s.station d := by simp only [State.station, h]
theorem State.lane_of {s t : State} (h : t.lanes = s.lanes) (l : Fin 4) : t.lane l = s.lane l := by simp only [State.lane, h]
theorem State.view_of {s t : State} (h : t.views = s.views) (n : Nat) : t.view n = s.view n := by simp only [State.view, h]
theorem State.hold_of {s t : State} (h : t.holds = s.holds) (n : Nat) : t.hold n = s.hold n := by simp only [State.hold, h]
theorem State.drawer_of {s t : State} (h : t.drawers = s.drawers) (n : Nat) : t.drawer n = s.drawer n := by simp only [State.drawer, h]
theorem State.taxRate_of {s t : State} (h : t.taxRates = s.taxRates) (c : Nat) : t.taxRate c = s.taxRate c := by simp only [State.taxRate, h]
theorem State.item_of {s t : State} (h : t.items = s.items) (n : Nat) : t.item n = s.item n := by simp only [State.item, h]
theorem State.tab_of {s t : State} (h : t.tabs = s.tabs) (n : Nat) : t.tab n = s.tab n := by simp only [State.tab, h]
theorem State.ticket_of {s t : State} (h : t.tickets = s.tickets) (n : Nat) : t.ticket n = s.ticket n := by simp only [State.ticket, h]
theorem State.roleOf_of {s t : State} (h : t.lanes = s.lanes) (d : Nat) : t.roleOf d = s.roleOf d := by simp only [State.roleOf, State.lane, h]
theorem State.isTill_of {s t : State} (h : t.lanes = s.lanes) (d : Nat) : t.isTill d = s.isTill d := by
  simp [State.isTill, State.roleOf_of h]
theorem State.isStation_of {s t : State} (h : t.lanes = s.lanes) (d : Nat) : t.isStation d = s.isStation d := by
  simp [State.isStation, State.roleOf_of h]
theorem State.polled_of {s t : State} (h : t.lanes = s.lanes) (l : Fin 4) : t.polled l = s.polled l := by simp only [State.polled, State.lane, h]
theorem State.screen_of {s t : State} (h : t.stations = s.stations) (d : Nat) : t.screen d = s.screen d := by simp only [State.screen, State.station, h]

/-- Entering an alert depends on the alert table and the clock alone. -/
theorem State.enterAlert_of {s t : State} (ha : t.alerts = s.alerts) (hf : t.alertsFull = s.alertsFull) (hc : t.clock = s.clock)
    (k : AlertKind) (n : Nat) :
    (t.enterAlert k n).alerts = (s.enterAlert k n).alerts ∧ (t.enterAlert k n).alertsFull = (s.enterAlert k n).alertsFull := by
  simp only [State.enterAlert, ha, hc]
  split
  · exact ⟨ha, hf⟩
  · split
    · exact ⟨rfl, hf⟩
    · exact ⟨rfl, rfl⟩

/-! ### The plain updates -/

theorem State.setDrop_frame (s : State) (d : Nat) (x : Drop) : SameBut [.drops] s (s.setDrop d x) :=
  ⟨fun _ => rfl, fun _ => rfl, fun _ => rfl, fun _ => rfl, fun _ => rfl, fun _ => rfl, fun _ => rfl, fun _ => rfl, fun _ => rfl, fun _ => rfl, fun _ => rfl, fun _ => rfl, fun _ => rfl, fun _ => rfl, fun _ => rfl, fun _ => rfl, fun _ => rfl, fun _ => rfl, fun _ => rfl, fun _ => rfl, fun _ => rfl, fun h => absurd (by simp) h, fun _ => rfl, fun _ => rfl, fun _ => rfl, fun _ => rfl, fun _ => rfl, fun _ => rfl⟩

theorem State.setStation_frame (s : State) (d : Nat) (x : Station) : SameBut [.stations] s (s.setStation d x) :=
  ⟨fun _ => rfl, fun _ => rfl, fun _ => rfl, fun _ => rfl, fun _ => rfl, fun _ => rfl, fun _ => rfl, fun _ => rfl, fun _ => rfl, fun _ => rfl, fun _ => rfl, fun _ => rfl, fun _ => rfl, fun _ => rfl, fun _ => rfl, fun _ => rfl, fun _ => rfl, fun _ => rfl, fun _ => rfl, fun h => absurd (by simp) h, fun _ => rfl, fun _ => rfl, fun _ => rfl, fun _ => rfl, fun _ => rfl, fun _ => rfl, fun _ => rfl, fun _ => rfl⟩

theorem State.setLane_frame (s : State) (l : Fin 4) (x : Lane) : SameBut [.lanes] s (s.setLane l x) :=
  ⟨fun _ => rfl, fun _ => rfl, fun _ => rfl, fun _ => rfl, fun _ => rfl, fun _ => rfl, fun _ => rfl, fun _ => rfl, fun _ => rfl, fun _ => rfl, fun _ => rfl, fun _ => rfl, fun _ => rfl, fun _ => rfl, fun _ => rfl, fun _ => rfl, fun _ => rfl, fun _ => rfl, fun _ => rfl, fun _ => rfl, fun h => absurd (by simp) h, fun _ => rfl, fun _ => rfl, fun _ => rfl, fun _ => rfl, fun _ => rfl, fun _ => rfl, fun _ => rfl⟩

theorem State.setView_frame (s : State) (n : Nat) (v : Option View) : SameBut [.views] s (s.setView n v) :=
  ⟨fun _ => rfl, fun _ => rfl, fun _ => rfl, fun _ => rfl, fun _ => rfl, fun _ => rfl, fun _ => rfl, fun _ => rfl, fun _ => rfl, fun _ => rfl, fun h => absurd (by simp) h, fun _ => rfl, fun _ => rfl, fun _ => rfl, fun _ => rfl, fun _ => rfl, fun _ => rfl, fun _ => rfl, fun _ => rfl, fun _ => rfl, fun _ => rfl, fun _ => rfl, fun _ => rfl, fun _ => rfl, fun _ => rfl, fun _ => rfl, fun _ => rfl, fun _ => rfl⟩

theorem State.setHold_frame (s : State) (n : Nat) (h : Option HoldRef) : SameBut [.holds] s (s.setHold n h) :=
  ⟨fun _ => rfl, fun _ => rfl, fun _ => rfl, fun _ => rfl, fun _ => rfl, fun _ => rfl, fun _ => rfl, fun _ => rfl, fun _ => rfl, fun _ => rfl, fun _ => rfl, fun _ => rfl, fun h => absurd (by simp) h, fun _ => rfl, fun _ => rfl, fun _ => rfl, fun _ => rfl, fun _ => rfl, fun _ => rfl, fun _ => rfl, fun _ => rfl, fun _ => rfl, fun _ => rfl, fun _ => rfl, fun _ => rfl, fun _ => rfl, fun _ => rfl, fun _ => rfl⟩

theorem State.setDrawer_frame (s : State) (n : Nat) (d : Drawer) : SameBut [.drawers] s (s.setDrawer n d) :=
  ⟨fun _ => rfl, fun _ => rfl, fun _ => rfl, fun _ => rfl, fun _ => rfl, fun _ => rfl, fun _ => rfl, fun _ => rfl, fun _ => rfl, fun _ => rfl, fun _ => rfl, fun _ => rfl, fun _ => rfl, fun h => absurd (by simp) h, fun _ => rfl, fun _ => rfl, fun _ => rfl, fun _ => rfl, fun _ => rfl, fun _ => rfl, fun _ => rfl, fun _ => rfl, fun _ => rfl, fun _ => rfl, fun _ => rfl, fun _ => rfl, fun _ => rfl, fun _ => rfl⟩

theorem State.setTaxRate_frame (s : State) (c r : Nat) : SameBut [.taxRates] s (s.setTaxRate c r) :=
  ⟨fun _ => rfl, fun _ => rfl, fun _ => rfl, fun _ => rfl, fun _ => rfl, fun _ => rfl, fun _ => rfl, fun h => absurd (by simp) h, fun _ => rfl, fun _ => rfl, fun _ => rfl, fun _ => rfl, fun _ => rfl, fun _ => rfl, fun _ => rfl, fun _ => rfl, fun _ => rfl, fun _ => rfl, fun _ => rfl, fun _ => rfl, fun _ => rfl, fun _ => rfl, fun _ => rfl, fun _ => rfl, fun _ => rfl, fun _ => rfl, fun _ => rfl, fun _ => rfl⟩

theorem State.setItem_frame (s : State) (n : Nat) (x : Item) : SameBut [.items] s (s.setItem n x) :=
  ⟨fun _ => rfl, fun _ => rfl, fun _ => rfl, fun _ => rfl, fun _ => rfl, fun _ => rfl, fun h => absurd (by simp) h, fun _ => rfl, fun _ => rfl, fun _ => rfl, fun _ => rfl, fun _ => rfl, fun _ => rfl, fun _ => rfl, fun _ => rfl, fun _ => rfl, fun _ => rfl, fun _ => rfl, fun _ => rfl, fun _ => rfl, fun _ => rfl, fun _ => rfl, fun _ => rfl, fun _ => rfl, fun _ => rfl, fun _ => rfl, fun _ => rfl, fun _ => rfl⟩

theorem State.setTab_frame (s : State) (n : Nat) (t : Tab) : SameBut [.tabs] s (s.setTab n t) :=
  ⟨fun _ => rfl, fun _ => rfl, fun _ => rfl, fun _ => rfl, fun _ => rfl, fun _ => rfl, fun _ => rfl, fun _ => rfl, fun h => absurd (by simp) h, fun _ => rfl, fun _ => rfl, fun _ => rfl, fun _ => rfl, fun _ => rfl, fun _ => rfl, fun _ => rfl, fun _ => rfl, fun _ => rfl, fun _ => rfl, fun _ => rfl, fun _ => rfl, fun _ => rfl, fun _ => rfl, fun _ => rfl, fun _ => rfl, fun _ => rfl, fun _ => rfl, fun _ => rfl⟩

theorem State.editTab_frame (s : State) (n : Nat) (f : Tab → Tab) : SameBut [.tabs] s (s.editTab n f) :=
  ⟨fun _ => rfl, fun _ => rfl, fun _ => rfl, fun _ => rfl, fun _ => rfl, fun _ => rfl, fun _ => rfl, fun _ => rfl, fun h => absurd (by simp) h, fun _ => rfl, fun _ => rfl, fun _ => rfl, fun _ => rfl, fun _ => rfl, fun _ => rfl, fun _ => rfl, fun _ => rfl, fun _ => rfl, fun _ => rfl, fun _ => rfl, fun _ => rfl, fun _ => rfl, fun _ => rfl, fun _ => rfl, fun _ => rfl, fun _ => rfl, fun _ => rfl, fun _ => rfl⟩

theorem State.editTicket_frame (s : State) (n : Nat) (f : Ticket → Ticket) : SameBut [.tickets] s (s.editTicket n f) :=
  ⟨fun _ => rfl, fun _ => rfl, fun _ => rfl, fun _ => rfl, fun _ => rfl, fun _ => rfl, fun _ => rfl, fun _ => rfl, fun _ => rfl, fun _ => rfl, fun _ => rfl, fun _ => rfl, fun _ => rfl, fun _ => rfl, fun _ => rfl, fun h => absurd (by simp) h, fun _ => rfl, fun _ => rfl, fun _ => rfl, fun _ => rfl, fun _ => rfl, fun _ => rfl, fun _ => rfl, fun _ => rfl, fun _ => rfl, fun _ => rfl, fun _ => rfl, fun _ => rfl⟩

theorem State.clearRefs_frame (s : State) (pick : Nat → Bool) : SameBut [.stations] s (s.clearRefs pick) :=
  ⟨fun _ => rfl, fun _ => rfl, fun _ => rfl, fun _ => rfl, fun _ => rfl, fun _ => rfl, fun _ => rfl, fun _ => rfl, fun _ => rfl, fun _ => rfl, fun _ => rfl, fun _ => rfl, fun _ => rfl, fun _ => rfl, fun _ => rfl, fun _ => rfl, fun _ => rfl, fun _ => rfl, fun _ => rfl, fun h => absurd (by simp) h, fun _ => rfl, fun _ => rfl, fun _ => rfl, fun _ => rfl, fun _ => rfl, fun _ => rfl, fun _ => rfl, fun _ => rfl⟩

/-! ### Answers, alerts, notices, messages -/

theorem State.place_frame (s : State) (src : Nat) (r : Result) : SameBut [.answerSlot, .drops] s (s.place src r) := by
  unfold State.place
  split
  · constructor <;> intro h <;> first | rfl | exact absurd (by simp) h
  · exact (State.setDrop_frame s src _).mono (by simp)

theorem State.enterAlert_frame (s : State) (k : AlertKind) (n : Nat) : SameBut [.alerts, .alertsFull] s (s.enterAlert k n) := by
  unfold State.enterAlert
  split
  · exact SameBut.refl _ s
  · split <;> (constructor <;> intro h <;> first | rfl | exact absurd (by simp) h)

theorem State.notify_frame (s : State) (d : Nat) (n : Notice) : SameBut [.drops] s (s.notify d n) := by
  unfold State.notify
  split
  · exact State.setDrop_frame s d _
  · exact SameBut.refl _ s

theorem State.notifyPresent_frame (s : State) (n : Notice) : SameBut [.drops] s (s.notifyPresent n) :=
  SameBut.foldl (fun s d => State.notify_frame s d n) _ s

theorem State.redraw_frame (s : State) (d : Nat) : SameBut [.drops] s (s.redraw d) := State.setDrop_frame s d _

theorem State.post_frame (s : State) (d : Nat) (ms : List Msg) : SameBut [.drops] s (s.post d ms) := by
  unfold State.post
  split
  · exact SameBut.refl _ s
  · split
    · exact State.setDrop_frame s d _
    · exact State.redraw_frame s d

/-! ### Stock -/

theorem State.takeStock_frame (s : State) (x n : Nat) : SameBut [.items] s (s.takeStock x n) := by
  unfold State.takeStock
  split
  · exact SameBut.refl _ s
  · exact State.setItem_frame s x _

theorem State.giveStock_frame (s : State) (x n : Nat) : SameBut [.items] s (s.giveStock x n) := by
  unfold State.giveStock
  split
  · exact SameBut.refl _ s
  · exact State.setItem_frame s x _

theorem State.stockAlerts_frame (s : State) (x : Nat) : SameBut [.alerts, .alertsFull, .drops] s (s.stockAlerts x) := by
  unfold State.stockAlerts
  split
  · exact SameBut.refl _ s
  · split
    · exact SameBut.refl _ s
    · have h1 : ∀ u : State, SameBut [.alerts, .alertsFull, .drops] u (u.enterAlert .lowStock x) :=
        fun u => (State.enterAlert_frame u _ _).mono (by simp)
      have h2 : ∀ (u : State) n, SameBut [.alerts, .alertsFull, .drops] u ((u.enterAlert .soldOut x).notifyPresent n) :=
        fun u n => (State.enterAlert_frame u _ _).step (State.notifyPresent_frame _ n) (by simp) (by simp)
      dsimp only
      refine SameBut.trans (t := if _ then _ else s) ?_ (SameBut.ite (fun _ => h2 _ _) fun _ => SameBut.refl _ _)
      exact SameBut.ite (fun _ => h1 s) fun _ => SameBut.refl _ s

theorem State.reserve_frame (s : State) (item : Nat) (mods : List Nat) (q : Nat) :
    SameBut [.items, .alerts, .alertsFull, .drops] s (s.reserve item mods q) :=
  (SameBut.foldl (fun s x => State.takeStock_frame s x _) _ s).step
    (SameBut.foldl (fun s x => State.stockAlerts_frame s x) _ _) (by simp) (by simp)

theorem State.restore_frame (s : State) (l : Line) : SameBut [.items] s (s.restore l) :=
  SameBut.foldl (fun s x => State.giveStock_frame s x _) _ s

theorem State.restoreTicket_frame (s : State) (k : Ticket) : SameBut [.items] s (s.restoreTicket k) :=
  SameBut.foldl (fun s l => State.restore_frame s l) _ s

/-! ### Screens, lists, firing, kills -/

theorem State.syncScreen_frame (s : State) (d : Nat) (before : List Nat) (b : Option Nat) :
    SameBut [.tickets, .drops] s (s.syncScreen d before b) :=
  (SameBut.foldl (fun s n => State.editTicket_frame s n _) _ s).step (State.post_frame _ d _) (by simp) (by simp)

theorem State.takeOut_frame (s : State) (n d : Nat) : SameBut [.stations, .tickets] s (s.takeOut n d) :=
  (State.setStation_frame s d _).step (State.editTicket_frame _ n _) (by simp) (by simp)

theorem State.admitOne_frame (s : State) (d : Nat) : SameBut [.stations, .tickets] s (s.admitOne d) := by
  have h1 : ∀ (x : Station) n f, SameBut [.stations, .tickets] s ((s.setStation d x).editTicket n f) := fun x n f =>
    (State.setStation_frame s d x).step (State.editTicket_frame _ n f) (by simp) (by simp)
  unfold State.admitOne
  split
  · exact SameBut.refl _ s
  · dsimp only
    split
    · exact h1 _ _ _
    · exact (h1 _ _ _).step (State.setStation_frame _ d _) (by simp) (by simp)

theorem State.admitMany_frame (d n : Nat) (s : State) : SameBut [.stations, .tickets] s (State.admitMany d n s) := by
  induction n generalizing s with
  | zero => exact SameBut.refl _ s
  | succ n ih => exact SameBut.ite (fun _ => (State.admitOne_frame s d).trans (ih _)) fun _ => SameBut.refl _ s

theorem State.fillLive_frame (s : State) (d : Nat) : SameBut [.stations, .tickets] s (s.fillLive d) := State.admitMany_frame d _ s

theorem State.fireOne_frame (s : State) (n : Nat) : SameBut [.stations, .tickets, .fireCount] s (s.fireOne n) := by
  unfold State.fireOne
  split
  · exact SameBut.refl _ s
  · refine SameBut.step ?_ (State.fillLive_frame _ _) (List.Subset.refl _) (by simp)
    refine SameBut.step ?_ (State.setStation_frame _ _ _) (List.Subset.refl _) (by simp)
    constructor <;> intro h <;> first | rfl | exact absurd (by simp) h

theorem State.fireAll_frame (s : State) (ns : List Nat) : SameBut [.stations, .tickets, .fireCount, .drops] s (s.fireAll ns) :=
  (SameBut.foldl (fun s n => State.fireOne_frame s n) _ s).step
    (SameBut.foldl (fun st d => State.syncScreen_frame st d _ none) _ _) (by simp) (by simp)

theorem State.killTicket_frame (s : State) (n : Nat) : SameBut [.stations, .tickets, .drops] s (s.killTicket n) := by
  unfold State.killTicket
  split
  · exact SameBut.refl _ s
  · refine SameBut.step ?_ (State.syncScreen_frame _ _ _ _) (List.Subset.refl _) (by simp)
    refine SameBut.step (ps := [.stations, .tickets]) ?_ (State.clearRefs_frame _ _) (by simp) (by simp)
    refine SameBut.trans (t := (s.takeOut n _).editTicket n _) ?_
      (SameBut.ite (fun _ => State.fillLive_frame _ _) fun _ => SameBut.refl _ _)
    exact (State.takeOut_frame s n _).step (State.editTicket_frame _ n _) (List.Subset.refl _) (by simp)

/-! ### Retirement -/

theorem State.removeTab_frame (s : State) (n : Nat) : SameBut [.tabs, .tickets, .views, .stations] s (s.removeTab n) := by
  constructor <;> intro h <;> first | rfl | exact absurd (by simp) h

theorem State.retireCheck_frame (s : State) (n : Nat) : SameBut [.tabs, .tickets, .views, .stations] s (s.retireCheck n) := by
  unfold State.retireCheck
  split
  · exact SameBut.refl _ s
  · exact SameBut.ite (fun _ => State.removeTab_frame s n) fun _ => SameBut.refl _ s

/-! ### Sending -/

theorem State.loseRoute_frame (tab : Nat) (s : State) (l : Line) :
    SameBut [.tabs, .alerts, .alertsFull] s (State.loseRoute tab s l) :=
  (State.editTab_frame s tab _).step (State.enterAlert_frame _ _ _) (by simp) (by simp)

theorem State.makeTicket_frame (tab : Nat) (rush : Bool) (s : State) (r : Run) :
    SameBut [.tabs, .tickets, .ticketCounter] s (State.makeTicket tab rush s r) := by
  constructor <;> intro h <;> first | rfl | exact absurd (by simp) h

theorem State.sendTab_frame {s : State} {n : Nat} {t : Tab} {hold rush : Bool} {u : State} {made : List Nat} {lost : Nat}
    (h : s.sendTab n t hold rush = .done u made lost) : SameBut sendParts s u := by
  unfold State.sendTab at h
  dsimp only at h
  split at h
  · cases h
  · simp only [Sent.done.injEq] at h
    obtain ⟨rfl, -, -⟩ := h
    have h1 : ∀ (ls : List Line) (rs : List Run), SameBut sendParts s (rs.foldl (State.makeTicket n rush) (ls.foldl (State.loseRoute n) s)) :=
      fun ls rs => (SameBut.foldl (fun s l => State.loseRoute_frame n s l) _ s).step
        (SameBut.foldl (fun s r => State.makeTicket_frame n rush s r) _ _) (by simp) (by simp)
    split
    · exact h1 _ _
    · exact (h1 _ _).step (State.fireAll_frame _ _) (List.Subset.refl _) (by simp)

end Sys2Proof.Machine
end

