-- ==== Sys2Proof/Laws/Requests.lean ====
section
/-! SUPPORT. Laws/Requests.lean: what becomes of a request: turned away, or taken by its owner; the concourse controller's own
requests are admitted whenever the period gate is open. -/

namespace Sys2Proof.Machine

theorem State.admits_iff (s : State) (k : ReqKind) (src : Nat) :
    s.admits k src = true ↔ s.mode = .operating ∧ s.mayAsk k src = true ∧ gateOpen k s.period = true := by
  simp [State.admits, and_assoc]

/-- An admitted request is its owner's effect with the owner's answer placed. -/
theorem request_admitted {k : ReqKind} {src : Nat} {owner : State → State × Reply} {s : State} (h : s.admits k src = true) :
    request k src owner s = .next ((owner s).1.place src ⟨k.code, (owner s).2⟩) := by
  obtain ⟨hm, ha, hg⟩ := (State.admits_iff s k src).mp h
  simp only [State.mayAsk] at ha
  split at ha
  · rename_i who hw
    simp [request, judge, hm, hw, ha, hg]
  · cases ha

/-- A request its sender may not send is answered ROLE. -/
theorem request_role {k : ReqKind} {src : Nat} {owner : State → State × Reply} {s : State} (hm : s.mode = .operating)
    (h : s.mayAsk k src = false) : request k src owner s = .next (s.place src ⟨k.code, refuse .role []⟩) := by
  simp only [State.mayAsk] at h
  split at h
  · rename_i who hw
    simp [request, judge, hm, hw, h]
  · rename_i hw
    simp [request, judge, hm, hw]

/-- A request the period does not allow is answered PERIOD. -/
theorem request_period {k : ReqKind} {src : Nat} {owner : State → State × Reply} {s : State} (hm : s.mode = .operating)
    (h : s.mayAsk k src = true) (hg : gateOpen k s.period = false) :
    request k src owner s = .next (s.place src ⟨k.code, refuse .period []⟩) := by
  simp only [State.mayAsk] at h
  split at h
  · rename_i who hw
    simp [request, judge, hm, hw, h, hg]
  · cases h

/-- Outside operation no request is taken. -/
theorem request_silent {k : ReqKind} {src : Nat} {owner : State → State × Reply} {s : State} (hm : s.mode ≠ .operating) :
    request k src owner s = .next s := by
  simp [request, hm]

/-- Whatever a request's owner keeps, the request keeps, so long as placing an answer keeps it. -/
theorem request_keeps {k : ReqKind} {src : Nat} {owner : State → State × Reply} {P : State → Prop} {s t : State} (hs : P s)
    (ho : s.admits k src = true → P (owner s).1) (hp : ∀ u r, P u → P (u.place src r))
    (h : request k src owner s = .next t) : P t := by
  by_cases hm : s.mode = .operating
  · cases hg : s.mayAsk k src
    · rw [request_role hm hg] at h
      cases h
      exact hp _ _ hs
    · cases hp' : gateOpen k s.period
      · rw [request_period hm hg hp'] at h
        cases h
        exact hp _ _ hs
      · have ha : s.admits k src = true := (State.admits_iff s k src).mpr ⟨hm, hg, hp'⟩
        rw [request_admitted ha] at h
        cases h
        exact hp _ _ (ho ha)
  · rw [request_silent hm] at h
    cases h
    exact hs

/-- The concourse controller may send every request but the stations'. -/
theorem State.mayAsk_controller (s : State) (k : ReqKind) : s.mayAsk k 0 = roleAllows k .controller := by
  simp [State.mayAsk, State.sender]

/-- A request admitted comes from a till, a station or the concourse controller. -/
theorem State.sender_of_admits {s : State} {k : ReqKind} {src : Nat} (h : s.admits k src = true) :
    src = 0 ∨ s.isTill src = true ∨ s.isStation src = true := by
  obtain ⟨-, ha, -⟩ := (State.admits_iff s k src).mp h
  simp only [State.mayAsk, State.sender] at ha
  by_cases h0 : src = 0
  · exact .inl h0
  · by_cases h1 : s.isTill src = true
    · exact .inr (.inl h1)
    · by_cases h2 : s.isStation src = true
      · exact .inr (.inr h2)
      · simp [h0, h1, h2] at ha

end Sys2Proof.Machine
end

