-- ==== Sys2Proof/Laws/Effects.lean ====
section
/-! SUPPORT. Laws/Effects.lean: what each shared operation does, said once: fresh numbers, notices, stock, references and
retirement, the checks of an edit, and the search for the next drop of a pass. -/

namespace Sys2Proof.Machine

/-! ### Numbers -/

/-- The number taken is in range, not in use, and the one asked for when that is free (R37, R78). -/
theorem firstFree_spec (used : List Nat) (top : Nat) (htop : used.length < top) (n : Nat) (hn : 1 ≤ n ∧ n ≤ top) :
    let r := firstFree used top used.length n
    (1 ≤ r ∧ r ≤ top) ∧ r ∉ used ∧ (n ∉ used → r = n) := by
  -- generalized: cyc
  let nxt : Nat → Nat := fun n => if n = top then 1 else n + 1
  have hnx : ∀ m, 1 ≤ m ∧ m ≤ top → 1 ≤ nxt m ∧ nxt m ≤ top := by intro m hm; simp only [nxt]; split <;> omega
  -- iterate
  have iter : ∀ k m, 1 ≤ m ∧ m ≤ top → k < top → (nxt^[k] m) = (m - 1 + k) % top + 1 := by
    intro k
    induction k with
    | zero => intro m hm _; simp [Nat.mod_eq_of_lt (show m - 1 < top by omega)]; omega
    | succ k ih =>
      intro m hm hk
      rw [Function.iterate_succ', Function.comp, ih m hm (by omega)]
      simp only [nxt]
      have hlt : (m - 1 + k) % top < top := Nat.mod_lt _ (by omega)
      rw [show m - 1 + (k+1) = (m - 1 + k) + 1 from by omega]
      split
      · rename_i h
        have : (m - 1 + k) % top = top - 1 := by omega
        rw [Nat.add_mod, this]
        by_cases h1 : top = 1
        · subst h1; simp at hk
        · rw [Nat.mod_eq_of_lt (show 1 < top by omega)]
          rw [show top - 1 + 1 = top by omega, Nat.mod_self]
      · rename_i h
        have e1 : ((m - 1 + k) + 1) % top = ((m-1+k) % top + 1) % top := by simp
        rw [e1, Nat.mod_eq_of_lt (show (m-1+k) % top + 1 < top by omega)]
  have gen : ∀ fuel m, 1 ≤ m ∧ m ≤ top → 
      (firstFree used top fuel m ∉ used ∨ (∀ i, i < fuel → nxt^[i] m ∈ used) ∧ firstFree used top fuel m = nxt^[fuel] m) ∧
      (1 ≤ firstFree used top fuel m ∧ firstFree used top fuel m ≤ top) := by
    intro fuel
    induction fuel with
    | zero => intro m hm; exact ⟨.inr ⟨fun i hi => by omega, rfl⟩, hm⟩
    | succ f ih =>
      intro m hm
      simp only [firstFree]
      split
      · rename_i hc
        have hc : m ∈ used := by simpa using hc
        have := ih (nxt m) (hnx m hm)
        refine ⟨?_, this.2⟩
        rcases this.1 with h | ⟨h1, h2⟩
        · exact .inl h
        · refine .inr ⟨fun i hi => ?_, h2⟩
          cases i with
          | zero => exact hc
          | succ i => exact h1 i (by omega)
      · rename_i hc
        exact ⟨.inl (by simpa using hc), hm⟩
  have g := gen used.length n hn
  refine ⟨g.2, ?_, ?_⟩
  · rcases g.1 with h | ⟨h1, h2⟩
    · exact h
    · intro hmem
      rw [h2] at hmem
      -- used.length + 1 distinct numbers in used
      have hall : ∀ i ∈ List.range (used.length + 1), nxt^[i] n ∈ used := by
        intro i hi
        rw [List.mem_range] at hi
        rcases Nat.lt_or_ge i used.length with h | h
        · exact h1 i h
        · have : i = used.length := by omega
          rw [this]; exact hmem
      have hnd : ((List.range (used.length + 1)).map fun i => nxt^[i] n).Nodup := by
        refine List.Nodup.map_on ?_ List.nodup_range
        intro i hi j hj he
        rw [List.mem_range] at hi hj
        rw [iter i n hn (by omega), iter j n hn (by omega)] at he
        have h3 : (n - 1 + i) % top = (n - 1 + j) % top := by omega
        have hmod : i % top = j % top := by
          have := Nat.ModEq.add_left_cancel' (n - 1) (show (n-1+i) ≡ (n-1+j) [MOD top] from h3)
          exact this
        rwa [Nat.mod_eq_of_lt (by omega), Nat.mod_eq_of_lt (by omega)] at hmod
      have hsub : ((List.range (used.length + 1)).map fun i => nxt^[i] n) ⊆ used := by
        intro x hx; rw [List.mem_map] at hx; obtain ⟨i, hi, rfl⟩ := hx; exact hall i hi
      have := (hnd.subperm hsub).length_le
      simp at this
      try omega
  · intro h
    cases hl : used.length with
    | zero => rfl
    | succ f => simp only [firstFree]; rw [if_neg (by simpa using h)]

theorem State.tab_none_iff (s : State) (n : Nat) (h : 1 ≤ n ∧ n ≤ 9999) : s.tab n = none ↔ n ∉ s.tabs.map Prod.fst := by
  simp only [State.tab]; rw [if_pos h]
  induction s.tabs with
  | nil => simp
  | cons e r ih => obtain ⟨k, v⟩ := e; simp only [Table.find, List.map_cons, List.mem_cons]; split <;> simp_all [eq_comm]

theorem State.tab_some {s : State} {n t} (ht : s.tab n = some t) : (1 ≤ n ∧ n ≤ Config.maxTabNumber) ∧ s.tabs.find n = some t := by
  unfold State.tab at ht; split at ht
  · exact ⟨by assumption, ht⟩
  · cases ht

theorem mem_distinct (xs : List Nat) (x : Nat) : x ∈ distinct xs ↔ x ∈ xs := by
  induction xs with
  | nil => simp [distinct]
  | cons y r ih => simp [distinct, ih]; by_cases h : x = y <;> simp [h]

theorem nodup_distinct (xs : List Nat) : (distinct xs).Nodup := by
  induction xs with
  | nil => simp [distinct]
  | cons y r ih => simp only [distinct, List.nodup_cons]; exact ⟨by simp, ih.filter _⟩

/-! ### The checks of an edit -/

theorem State.editChecks_ok {s : State} {tab rev : Nat} {gate : Tab → Option Reply} {t : Tab} (ht : s.tab tab = some t) (hg : gate t = none) (hr : t.revision = rev) :
    s.editChecks tab rev gate = .ok t := by simp [State.editChecks, ht, hg, hr]

theorem onlyOpen_opened {t : Tab} (h : t.state = .opened) : onlyOpen t = none := by simp [onlyOpen, h]

/-! ### Notices -/

theorem State.notify_drop (s : State) (d : Nat) (n : Notice) (e : Nat) :
    (s.notify d n).drop e = if e = d ∧ s.isTill d = true then { s.drop d with notices := queueNotice (s.drop d).notices n } else s.drop e := by
  simp only [State.notify]
  by_cases h : s.isTill d = true
  · have hd : isDrop d = true := by simp [State.isTill] at h; exact h.1
    by_cases he : e = d
    · subst he; simp [h, hd]
    · simp [h, he]
  · simp [h]

theorem State.notifyAll_drop (n : Notice) (ds : List Nat) (hnd : ds.Nodup) (s : State) (hds : ∀ d ∈ ds, s.isTill d = true) (e : Nat) :
    (ds.foldl (fun st d => st.notify d n) s).drop e = if e ∈ ds then { s.drop e with notices := queueNotice (s.drop e).notices n } else s.drop e := by
  induction ds generalizing s with
  | nil => simp
  | cons d r ih =>
    rw [List.foldl_cons]
    have hnd' := List.nodup_cons.mp hnd
    have hf := State.notify_frame s d n
    rw [ih hnd'.2 _ (fun x hx => by rw [State.isTill_of (hf.lanes (by simp))]; exact hds x (by simp [hx]))]
    simp only [State.notify_drop, hds d (by simp), and_true]
    by_cases he : e = d
    · subst he; simp [hnd'.1]
    · simp [he]

theorem State.notifyPresent_spec (s : State) (n : Notice) : NoticeForPresent n s (s.notifyPresent n) := by
  intro d
  have hn : allDrops.Nodup := List.nodup_range' ..
  have := State.notifyAll_drop n (allDrops.filter fun d => s.isTill d && (s.drop d).present) (hn.filter _) s
    (fun x hx => by simp at hx; exact hx.2.1) d
  simp only [State.notifyPresent, this]
  constructor
  · intro h
    rw [if_pos]
    simp [h]
    have : isDrop d = true := by have := h.1; simp [State.isTill] at this; exact this.1
    rw [isDrop_iff] at this; simp [allDrops]; omega
  · intro h
    rw [if_neg]; simp; intro _; simpa using h

theorem OnlyNotices.refl (x : Drop) : OnlyNotices x x := rfl
theorem OnlyNotices.trans {x y z : Drop} (a : OnlyNotices x y) (b : OnlyNotices y z) : OnlyNotices x z := by
  unfold OnlyNotices at *; rw [b, a]

theorem State.notifyPresent_only (s : State) (n : Notice) (d : Nat) : OnlyNotices (s.drop d) ((s.notifyPresent n).drop d) := by
  have := State.notifyPresent_spec s n d
  by_cases h : s.isTill d = true ∧ (s.drop d).present = true
  · rw [this.1 h]; rfl
  · rw [this.2 h]; rfl

/-! ### Stock -/

theorem State.takeStock_item (s : State) (x amt y : Nat) :
    (s.takeStock x amt).item y = if y = x then (s.item y).map fun i => { i with stock := i.stock.map (· - amt) } else s.item y := by
  simp only [State.takeStock]
  rcases h : s.item x with _ | i
  · by_cases hy : y = x <;> simp [hy, h]
  · have hn : isItemNumber x = true := by
      unfold State.item at h; split at h; assumption; cases h
    by_cases hy : y = x
    · subst hy; simp [h, hn]
    · simp [hy]

theorem State.giveStock_item (s : State) (x amt y : Nat) :
    (s.giveStock x amt).item y = if y = x then (s.item y).map fun i => { i with stock := i.stock.map fun c => min 9999 (c + amt) } else s.item y := by
  simp only [State.giveStock]
  rcases h : s.item x with _ | i
  · by_cases hy : y = x <;> simp [hy, h]
  · have hn : isItemNumber x = true := by
      unfold State.item at h; split at h; assumption; cases h
    by_cases hy : y = x
    · subst hy; simp [h, hn]
    · simp [hy]

theorem State.fold_items (f : State → Nat → State) (g : Nat → Item → Item)
    (hf : ∀ s x y, (f s x).item y = if y = x then (s.item y).map (g x) else s.item y) (xs : List Nat) (hnd : xs.Nodup) (s : State) (y : Nat) :
    (xs.foldl f s).item y = if y ∈ xs then (s.item y).map (g y) else s.item y := by
  induction xs generalizing s with
  | nil => simp
  | cons x r ih =>
    have h := List.nodup_cons.mp hnd
    rw [List.foldl_cons, ih h.2, hf]
    by_cases hy : y = x
    · subst hy; simp [h.1]
    · simp [hy]

theorem State.restore_item (s : State) (l : Line) (y : Nat) :
    (s.restore l).item y = if y ∈ l.item :: l.mods then (s.item y).map fun i => { i with stock := i.stock.map fun c => min 9999 (c + l.qty * (l.item :: l.mods).count y) } else s.item y := by
  simp only [State.restore]
  rw [State.fold_items (fun st x => st.giveStock x (l.qty * placesOf l.item l.mods x)) (fun x i => { i with stock := i.stock.map fun c => min 9999 (c + l.qty * (l.item :: l.mods).count x) }) (fun s x y => State.giveStock_item s x _ y) _ (nodup_distinct _)]
  simp only [mem_distinct]

theorem State.stockAlerts_only (s : State) (x d : Nat) : OnlyNotices (s.drop d) ((s.stockAlerts x).drop d) := by
  have h2 : ∀ (u : State) n k y, OnlyNotices (u.drop d) (((u.enterAlert k y).notifyPresent n).drop d) := by
    intro u n k y
    have := State.notifyPresent_only (u.enterAlert k y) n d
    rwa [State.drop_of ((State.enterAlert_frame u k y).drops (by simp))] at this
  have h1 : ∀ (u : State) k y, OnlyNotices (u.drop d) ((u.enterAlert k y).drop d) := by
    intro u k y
    rw [State.drop_of ((State.enterAlert_frame u k y).drops (by simp))]; exact OnlyNotices.refl _
  unfold State.stockAlerts
  split
  · exact OnlyNotices.refl _
  · split
    · exact OnlyNotices.refl _
    · dsimp only
      split
      · split
        · exact OnlyNotices.trans (h1 _ _ _) (h2 _ _ _ _)
        · exact h2 _ _ _ _
      · split
        · exact h1 _ _ _
        · exact OnlyNotices.refl _

theorem State.reserve_only (s : State) (item : Nat) (mods : List Nat) (q d : Nat) : OnlyNotices (s.drop d) ((s.reserve item mods q).drop d) := by
  simp only [State.reserve]
  have hf : SameBut [.items] s ((distinct (item :: mods)).foldl (fun st x => st.takeStock x (q * placesOf item mods x)) s) := SameBut.foldl (fun s x => State.takeStock_frame s x _) _ s
  have : ∀ (xs : List Nat) (u : State), OnlyNotices (u.drop d) ((xs.foldl State.stockAlerts u).drop d) := by
    intro xs
    induction xs with
    | nil => intro u; exact OnlyNotices.refl _
    | cons x r ih => intro u; rw [List.foldl_cons]; exact OnlyNotices.trans (State.stockAlerts_only _ _ _) (ih _)
  have h := this (distinct (item :: mods)) ((distinct (item :: mods)).foldl (fun st x => st.takeStock x (q * placesOf item mods x)) s)
  rwa [State.drop_of (hf.drops (by simp))] at h

theorem State.reserve_item (s : State) (item : Nat) (mods : List Nat) (q y : Nat) :
    (s.reserve item mods q).item y = if y ∈ item :: mods then (s.item y).map fun i => { i with stock := i.stock.map (· - q * (item :: mods).count y) } else s.item y := by
  simp only [State.reserve]
  have hf : ∀ (xs : List Nat) (u : State), SameBut [.alerts, .alertsFull, .drops] u (xs.foldl State.stockAlerts u) := fun xs u => SameBut.foldl (fun s x => State.stockAlerts_frame s x) xs u
  rw [State.item_of ((hf _ _).items (by simp))]
  rw [State.fold_items (fun st x => st.takeStock x (q * placesOf item mods x)) (fun x i => { i with stock := i.stock.map (· - q * (item :: mods).count x) }) (fun s x y => State.takeStock_item s x _ y) _ (nodup_distinct _)]
  simp only [mem_distinct]

theorem State.taxRate_fun {s t : State} (h : t.taxRates = s.taxRates) : t.taxRate = s.taxRate := funext fun c => State.taxRate_of h c

theorem State.poolCheck_frame (s : State) : SameBut [.alerts, .alertsFull] s s.poolCheck := SameBut.ite (fun _ => State.enterAlert_frame _ _ _) (fun _ => SameBut.refl _ _)

/-! ### References and retirement -/

theorem State.station_map (s : State) (f : Station → Station) (d : Nat) (h : isDrop d = true) :
    ({ s with stations := s.stations.map f } : State).station d = f (s.station d) := by
  simp [State.station, h]

theorem State.station_noDrop (s : State) (d : Nat) (h : isDrop d = false) : s.station d = .cold := by simp [State.station, h]

theorem State.clearRefs_station (s : State) (pick : Nat → Bool) (d : Nat) :
    (s.clearRefs pick).station d = match (s.station d).lastBumped with
      | some b => if pick b.ticket then { s.station d with lastBumped := none } else s.station d
      | none => s.station d := by
  by_cases h : isDrop d = true
  · exact State.station_map s _ d h
  · rw [Bool.not_eq_true] at h; simp [State.station_noDrop _ _ h, Station.cold]

/-- What a removal leaves (R57, R164). -/
theorem State.removeTab_spec (s : State) (n : Nat) : s.RemovesTab n (s.removeTab n) := by
  refine ⟨State.removeTab_frame s n, rfl, rfl, ?_, ?_⟩
  · intro m w hm
    simp only [State.view, State.removeTab, State.clearRefs, Fin.getElem_fin, Vector.getElem_map]
    split
    · rename_i w' hw'
      rw [hw']
      by_cases h : w'.tab = n
      · simp [h]; intro e; subst e; exact h
      · simp [h]; intro e; subst e; exact h
    · rename_i hw'; rw [hw']; simp
  · intro d
    have e : (s.removeTab n).station d = (s.clearRefs ((s.tickets.filter fun e => e.2.tab == n).map (·.1)).contains).station d := rfl
    rw [e, State.clearRefs_station]
    constructor
    · rintro ⟨b, e, hb, he, h1, h2⟩
      rw [hb]; simp only
      rw [if_pos]
      simp; exact ⟨e.2, by rw [← h1]; exact he, h2⟩
    · intro h
      split
      · rename_i b hb
        rw [if_neg]
        simp
        intro k hk; exact h b (b.ticket, k) hb hk rfl
      · rfl

/-- The check of R163 in its own words. -/
theorem State.mayRetire_iff (s : State) (n : Nat) (t : Tab) : s.mayRetire n t = true ↔ s.Retires n t := by
  simp only [State.mayRetire, State.Retires, Bool.and_eq_true, Bool.not_eq_true', beq_iff_eq, and_assoc]
  refine and_congr Iff.rfl (and_congr ?_ (and_congr ?_ ?_))
  · simp only [State.ticketsWork, List.any_eq_false]
    constructor
    · intro h e he ht
      have := h e he
      rcases hs : e.2.state <;> simp_all
    · intro h e he
      have := h e he
      by_cases ht : e.2.tab = n
      · rcases this ht with h | h <;> simp [h]
      · simp [ht]
  · simp only [State.tabReferenced, List.any_eq_false]
    constructor
    · intro h d b k hd hb hk hkn
      have hm : s.station d ∈ s.stations.toList := by
        simp only [State.station, hd, if_true]; simp
      have := h _ hm
      rw [hb] at this
      simp [hk, hkn] at this
    · intro h st hst
      split
      · rename_i b hb
        rcases hk : s.ticket b.ticket with _ | k
        · simp
        simp only [Option.any_some, beq_iff_eq]
        obtain ⟨i, hi, rfl⟩ := List.getElem_of_mem hst
        have hi' : i < 32 := by simpa using hi
        refine h (i+1) b k (by rw [isDrop_iff]; omega) ?_ hk
        rw [← hb]
        have hd : isDrop (i+1) = true := by rw [isDrop_iff]; omega
        simp only [State.station, hd, if_true]
        congr 1
        simp [dropIx, Fin.ofNat, Nat.mod_eq_of_lt hi']
      · simp
  · simp only [Bool.or_eq_true, Tab.hasUnsent, Bool.not_eq_true', List.any_eq_false]
    refine or_congr Iff.rfl ?_
    constructor
    · intro h l hl hv hs; have := h l hl; simp [hv, hs] at this
    · intro h l hl; have := h l hl; simpa using this

/-- The retirement check removes a present tab exactly when R163 allows it. -/
theorem State.retireCheck_spec (s : State) (n : Nat) (t : Tab) (h : s.tabs.find n = some t) :
    (s.Retires n t → s.retireCheck n = s.removeTab n) ∧ (¬s.Retires n t → s.retireCheck n = s) := by
  simp only [State.retireCheck, h, ← State.mayRetire_iff]
  constructor <;> intro h <;> simp [h]

/-- A tab that is not SETTLED is not retired. -/
theorem State.retireCheck_kept (s : State) (n : Nat) (h : ∀ t, s.tabs.find n = some t → t.state ≠ .settled) :
    s.retireCheck n = s := by
  simp only [State.retireCheck]
  split
  · rfl
  · rename_i t ht
    simp [State.mayRetire, h t ht]

/-! ### Messages, and the next drop of a pass -/

theorem State.post_fits (s : State) (d : Nat) (ms : List Msg) (h1 : s.isStation d = true) (h2 : ms ≠ []) (h : (s.drop d).messages.length + ms.length ≤ 16) :
    s.post d ms = s.setDrop d { s.drop d with messages := (s.drop d).messages ++ ms } := by
  simp [State.post, h1, h2, h]

/-- The drop a pass goes to next (R172). -/
theorem State.seek_spec (s : State) (l : Fin 4) : ∀ (fuel pass pos : Nat), pass ≤ 15 → 1 ≤ pos → pos ≤ 8 →
    ((pass = 0) ∨ (16 - pass) * 8 ≤ fuel + pos - 1) →
    let r := s.seek l fuel pass pos
    (1 ≤ r.2 ∧ r.2 ≤ 8) ∧ r.1 ≤ 15 ∧ (r.1 = 0 ∨ (s.drop (dropAt l r.2)).present = true) ∧
    (r.1 = pass → pos ≤ r.2 ∧ (pass ≠ 0 → ∀ a, pos ≤ a → a < r.2 → (s.drop (dropAt l a)).present = false)) ∧
    (r.1 ≠ pass → ∀ a, pos ≤ a → a ≤ 8 → (s.drop (dropAt l a)).present = false) ∧
    (pass = 0 → r = (pass, pos)) ∧ (r.1 = 0 ∨ pass ≤ r.1) ∧
    (r.1 ≠ pass → (r.1 = 0 → r.2 = 1) ∧ (∀ a, 1 ≤ a → a < r.2 → (s.drop (dropAt l a)).present = false) ∧
      (r.1 ≠ (pass + 1) % 16 → ∀ a, 1 ≤ a → a ≤ 8 → (s.drop (dropAt l a)).present = false)) := by
  intro fuel
  induction fuel with
  | zero =>
    intro pass pos h1 h2 h3 h4
    have : pass = 0 := by omega
    subst this
    simp [State.seek, h2, h3]
  | succ n ih =>
    intro pass pos h1 h2 h3 h4
    simp only [State.seek]
    split
    · rename_i hc
      refine ⟨⟨h2, h3⟩, h1, hc, fun _ => ⟨le_refl _, fun _ a x y => by omega⟩, fun h => absurd rfl h, fun _ => rfl, .inr (le_refl _),
        fun h => absurd rfl h⟩
    · rename_i hc
      push Not at hc
      obtain ⟨hp0, hpr⟩ := hc
      have hpr : (s.drop (dropAt l pos)).present = false := by simpa using hpr
      by_cases h8 : 8 ≤ pos
      · have : pos = 8 := by omega
        subst this
        have e : nextAddress pass 8 = ((pass + 1) % 16, 1) := rfl
        rw [e]
        have hb := ih ((pass + 1) % 16) 1 (by omega) (by omega) (by omega) (by omega)
        dsimp only at hb ⊢
        obtain ⟨b1, b2, b3, b4, b5, b6, b7, b8⟩ := hb
        have hne : (s.seek l n ((pass + 1) % 16) 1).1 ≠ pass := by
          rcases Nat.lt_or_ge (pass) 15 with h | h
          · have : (pass + 1) % 16 = pass + 1 := by omega
            rw [this] at b7 ⊢; omega
          · have : pass = 15 := by omega
            subst this
            have := b6 rfl
            rw [this]; decide
        refine ⟨b1, b2, b3, fun h => absurd h hne, fun _ a x y => ?_, fun h => absurd h hp0, ?_, fun _ => ⟨fun h => ?_, fun a x y => ?_, fun h => b5 h⟩⟩
        · have : a = 8 := by omega
          subst this; exact hpr
        · rcases Nat.lt_or_ge (pass) 15 with h | h
          · have : (pass + 1) % 16 = pass + 1 := by omega
            rw [this] at b7 ⊢; omega
          · have : pass = 15 := by omega
            subst this
            have := b6 rfl
            rw [this]; simp
        · by_cases hr : (s.seek l n ((pass + 1) % 16) 1).1 = (pass + 1) % 16
          · rw [b6 (hr ▸ h)]
          · exact (b8 hr).1 h
        · by_cases hr : (s.seek l n ((pass + 1) % 16) 1).1 = (pass + 1) % 16
          · by_cases h0 : (pass + 1) % 16 = 0
            · rw [b6 h0] at y; omega
            · exact (b4 hr).2 h0 a x y
          · exact (b8 hr).2.1 a x y
      · have e : nextAddress pass pos = (pass, pos + 1) := by simp [nextAddress]; omega
        rw [e]
        have hb := ih pass (pos + 1) (by omega) (by omega) (by omega) (by omega)
        dsimp only at hb ⊢
        obtain ⟨b1, b2, b3, b4, b5, b6, b7, b8⟩ := hb
        refine ⟨b1, b2, b3, fun h => ⟨by have := (b4 h).1; omega, fun h0 a x y => ?_⟩, fun h a x y => ?_, fun h => absurd h hp0, b7, b8⟩
        · rcases Nat.eq_or_lt_of_le x with h' | h'
          · subst h'; exact hpr
          · exact (b4 h).2 h0 a h' y
        · rcases Nat.eq_or_lt_of_le x with h' | h'
          · subst h'; exact hpr
          · exact b5 h a h' y

end Sys2Proof.Machine
end

