-- ==== Sys2Proof/Laws/Alerts.lean ====
section
/-! SUPPORT. Laws/Alerts.lean: what handing a list of entries to the alert table leaves, and which entries a reserve hands it (R187, R29). -/

namespace Sys2Proof.Machine

/-- Two states with the same alert table, marker and clock. -/
def SameAlerts (s t : State) : Prop := t.alerts = s.alerts ∧ t.alertsFull = s.alertsFull ∧ t.clock = s.clock

theorem SameAlerts.enter {s t : State} (h : SameAlerts s t) (k : AlertKind) (n : Nat) : SameAlerts (s.enterAlert k n) (t.enterAlert k n) := by
  have := State.enterAlert_of h.1 h.2.1 h.2.2 k n
  refine ⟨this.1, this.2, ?_⟩
  rw [(State.enterAlert_frame t k n).clock (by simp), (State.enterAlert_frame s k n).clock (by simp)]; exact h.2.2

/-- The alerts named entered in their order. -/
def State.enterAll (s : State) (keys : List (AlertKind × Nat)) : State := keys.foldl (fun st k => st.enterAlert k.1 k.2) s

theorem SameAlerts.all {s t : State} (h : SameAlerts s t) (keys : List (AlertKind × Nat)) : SameAlerts (s.enterAll keys) (t.enterAll keys) := by
  induction keys generalizing s t with
  | nil => exact h
  | cons k r ih => exact ih (h.enter k.1 k.2)

theorem State.enterAll_append (s : State) (a b) : s.enterAll (a ++ b) = (s.enterAll a).enterAll b := by simp [State.enterAll]
theorem State.entered_eq (s : State) (keys) : s.entered keys = ((s.enterAll keys).alerts, (s.enterAll keys).alertsFull) := rfl

theorem SameAlerts.trans {s t u : State} (a : SameAlerts s t) (b : SameAlerts t u) : SameAlerts s u :=
  ⟨b.1.trans a.1, b.2.1.trans a.2.1, b.2.2.trans a.2.2⟩
theorem SameAlerts.refl (s : State) : SameAlerts s s := ⟨rfl, rfl, rfl⟩
theorem SameAlerts.frame {ps} {s t : State} (h : SameBut ps s t) (h1 : Part.alerts ∉ ps) (h2 : Part.alertsFull ∉ ps) (h3 : Part.clock ∉ ps) : SameAlerts s t :=
  ⟨h.alerts h1, h.alertsFull h2, h.clock h3⟩
theorem SameAlerts.entered {s t : State} {keys} (h : SameAlerts (s.enterAll keys) t) : (t.alerts, t.alertsFull) = s.entered keys := by
  rw [State.entered_eq, h.1, h.2.1]

/-- The alerts of an item as it stands. -/
def State.keysAt (s : State) (x : Nat) : List (AlertKind × Nat) :=
  match s.item x with
  | some i => (i.stock.map fun c => stockKeys x i.lowMark c).getD []
  | none => []

/-- The alerts a reserve enters for one item (R29). -/
theorem State.stockAlerts_alerts (s : State) (x : Nat) : SameAlerts (s.enterAll (s.keysAt x)) (s.stockAlerts x) := by
  have hn : ∀ (u : State) n, SameAlerts u (u.notifyPresent n) := fun u n => .frame (State.notifyPresent_frame u n) (by simp) (by simp) (by simp)
  simp only [State.stockAlerts, State.keysAt]
  rcases s.item x with _ | i
  · exact .refl _
  · rcases hs : i.stock with _ | c
    · simp only [hs]; exact .refl _
    · simp only [hs, Option.map_some, Option.getD_some, stockKeys]
      by_cases h1 : c ≤ i.lowMark <;> by_cases h0 : c = 0
      · rw [if_pos h1, if_pos h1, if_pos h0, if_pos h0]; exact hn _ _
      · rw [if_pos h1, if_pos h1, if_neg h0, if_neg h0]; exact .refl _
      · rw [if_neg h1, if_neg h1, if_pos h0, if_pos h0]; exact hn _ _
      · rw [if_neg h1, if_neg h1, if_neg h0, if_neg h0]; exact .refl _

/-- The alerts a reserve enters, item by item (R29). -/
theorem State.stockAlerts_fold (xs : List Nat) : ∀ s : State, SameAlerts (s.enterAll (xs.flatMap s.keysAt)) (xs.foldl State.stockAlerts s) := by
  induction xs with
  | nil => intro s; exact .refl _
  | cons x r ih =>
    intro s
    rw [List.foldl_cons, List.flatMap_cons, State.enterAll_append]
    have e : (s.stockAlerts x).keysAt = s.keysAt := by
      funext y; simp only [State.keysAt, State.item_of ((State.stockAlerts_frame s x).items (by simp))]
    have := ih (s.stockAlerts x)
    rw [e] at this
    exact ((State.stockAlerts_alerts s x).all _).trans this

/-- A sum over the tabs when one of them is stored anew. -/
theorem Table.sum_put (m : Table Tab) (f : Tab → Nat) (h : m.Rising) (n : Nat) (y x : Tab) (hn : m.find n = some y) :
    ((m.put n x).map fun e => f e.2).sum + f y = (m.map fun e => f e.2).sum + f x := by
  induction m with
  | nil => simp at hn
  | cons e rest ih =>
    obtain ⟨k, v⟩ := e
    simp only [Table.Rising, List.map_cons, List.pairwise_cons] at h
    simp only [Table.put]
    split
    · rename_i hnk
      have hm := Table.find_some_mem hn
      simp only [List.mem_cons, Prod.mk.injEq] at hm
      rcases hm with hm | hm
      · omega
      · have := h.1 n (by simpa using ⟨y, hm⟩); omega
    · split
      · rename_i h1 h2
        simp only [Table.find, h2, if_true, Option.some.injEq] at hn
        subst hn; simp; omega
      · rename_i h1 h2
        simp only [Table.find, Ne.symm h2, if_false] at hn
        have := ih h.2 hn
        simp only [List.map_cons, List.sum_cons]; omega

end Sys2Proof.Machine
end

