-- ==== Sys2Proof/Laws/Edits.lean ====
section
/-! SUPPORT. Laws/Edits.lean: the checks common to every edit of one tab (R44). -/

namespace Sys2Proof.Machine

/-- The gate of an edit's kind (R38, R125). -/
def gateOf (k : ReqKind) : Tab → Option Reply :=
  match k with
  | .setLabel => notSettled
  | .split => planGate true
  | .assign | .unsplit => planGate false
  | _ => onlyOpen

/-- What a plan's gate refuses with (R125). -/
theorem planRefusal_eq (t : Tab) (h : t.state = .settling → t.settlement ≠ none) : planRefusal t = refuse .badState (t.stateRefusal .split) := by
  simp only [planRefusal, Tab.stateRefusal, countShares, List.countP_eq_length_filter]
  rcases hs : t.settlement with _ | sh
  · rcases hst : t.state <;> simp_all
  · rcases hst : t.state <;> simp

theorem Tab.allUnpaid_iff (t : Tab) : t.allUnpaid = true ↔ ∀ x ∈ t.settlement.getD [], x.pay = .unpaid := by
  simp [Tab.allUnpaid]

/-- The gate of an edit lets it go on exactly where the tab takes it, and refuses it with BAD-STATE elsewhere (R38, R44, R125). -/
theorem gateOf_spec (k : ReqKind) (hk : k ∈ [ReqKind.addLine, .voidLine, .setLabel, .setService, .closeEmpty, .split, .assign, .unsplit]) (t : Tab) :
    (t.TakesEdit k → gateOf k t = none) ∧ (¬t.TakesEdit k → gateOf k t = some (refuse .badState (t.stateRefusal k))) := by
  have base : ∀ k, gateOf k = onlyOpen → (t.TakesEdit k ↔ t.state = .opened) → t.stateRefusal k = [u8 t.state.code] →
      (t.TakesEdit k → gateOf k t = none) ∧ (¬t.TakesEdit k → gateOf k t = some (refuse .badState (t.stateRefusal k))) := by
    intro k h1 h2 h3
    rw [h1, h2, h3]
    exact ⟨fun h => by simp [onlyOpen, h], fun h => by simp [onlyOpen, h]⟩
  have plan : ∀ b, (t.state = .settling ∧ ∀ x ∈ t.settlement.getD [], x.pay = .unpaid) ∨ (b = true ∧ t.state = .opened) → planGate b t = none := by
    intro b h
    rcases h with ⟨h1, h2⟩ | ⟨h1, h2⟩
    · simp only [planGate, h1, t.allUnpaid_iff.mpr h2, if_true]
    · simp [planGate, h1, h2]
  have plan' : ∀ b, ¬(t.state = .settling ∧ ∀ x ∈ t.settlement.getD [], x.pay = .unpaid) → ¬(b = true ∧ t.state = .opened) → planGate b t = some (refuse .badState (t.stateRefusal .split)) := by
    intro b h1 h2
    rw [← planRefusal_eq]
    · rw [← Tab.allUnpaid_iff] at h1
      rcases hst : t.state
      · simp [planGate, hst] at h2 ⊢; simp [h2]
      · simp [planGate, hst] at h1 ⊢; simp [h1]
      · simp [planGate, hst]
    · intro h h'
      exact h1 ⟨h, by simp [h']⟩
  simp only [List.mem_cons, List.not_mem_nil, or_false] at hk
  rcases hk with rfl | rfl | rfl | rfl | rfl | rfl | rfl | rfl
  · exact base _ rfl Iff.rfl (by simp [Tab.stateRefusal])
  · exact base _ rfl Iff.rfl (by simp [Tab.stateRefusal])
  · refine ⟨fun h => ?_, fun h => ?_⟩
    · simp only [Tab.TakesEdit] at h; simp [gateOf, notSettled, h]
    · simp only [Tab.TakesEdit, not_not] at h; simp [gateOf, notSettled, h, Tab.stateRefusal]
  · exact base _ rfl Iff.rfl (by simp [Tab.stateRefusal])
  · exact base _ rfl Iff.rfl (by simp [Tab.stateRefusal])
  · exact ⟨fun h => plan _ (by simpa [Tab.TakesEdit, or_comm] using h), fun h => by
      simp only [Tab.TakesEdit, not_or] at h; exact plan' _ h.2 (by simp [h.1])⟩
  · exact ⟨fun h => plan _ (.inl h), fun h => by
      simp only [Tab.TakesEdit] at h; have := plan' false h (by simp); simpa [Tab.stateRefusal, gateOf] using this⟩
  · exact ⟨fun h => plan _ (.inl h), fun h => by
      simp only [Tab.TakesEdit] at h; have := plan' false h (by simp); simpa [Tab.stateRefusal, gateOf] using this⟩

/-- Every edit of one tab answers what its common checks refuse and leaves the state as it was. -/
theorem editChecks_answer {i : Instr} {k : ReqKind} {src tab rev : Nat} {s : State} (hi : editOf i = some (k, tab, rev)) (hs : sourceOf i = some src)
    (h : s.admits k src = true) {r : Reply} (hr : s.editChecks tab rev (gateOf k) = .error r) : Answers i s src k s r := by
  cases i <;> simp only [editOf, Option.some.injEq, Prod.mk.injEq, reduceCtorEq] at hi
  all_goals
    obtain ⟨rfl, rfl, rfl⟩ := hi
    simp only [sourceOf, Option.some.injEq] at hs
    subst hs
    unfold Answers
    rw [show exec _ s = request _ _ _ s from rfl, request_admitted h]
    simp only [gateOf] at hr
    simp only [addLine, voidLine, setLabel, setService, closeEmpty, splitRequest, assignRequest, unsplitRequest, hr]

end Sys2Proof.Machine
end

