-- ==== Sys2Proof/Laws/Router.lean ====
section
/-! SUPPORT. Laws/Router.lean: what the kitchen router's list operations do to a station's lists, its screen and the tickets: one
lemma an operation, saying all it can do. -/

namespace Sys2Proof.Machine

/-! ### Places in a list -/

theorem State.mem_ordered (s : State) (list : List Nat) (n : Nat) (a : Ticket) (x : Nat) :
    x ∈ s.ordered list n a ↔ x = n ∨ x ∈ list := by
  simp only [State.ordered, List.mem_append, List.mem_cons]
  generalize hp : (fun m => match s.ticket m with
    | some b => standsAhead s.clock b a
    | none => false) = p
  have h := List.takeWhile_append_dropWhile (p := p) (l := list)
  have hm : x ∈ list ↔ x ∈ list.takeWhile p ∨ x ∈ list.dropWhile p := by
    conv_lhs => rw [← h]
    exact List.mem_append
  rw [hm]
  constructor
  · rintro (h | h | h) <;> simp [h]
  · rintro (h | h | h) <;> simp [h]

theorem State.length_ordered (s : State) (list : List Nat) (n : Nat) (a : Ticket) :
    (s.ordered list n a).length = list.length + 1 := by
  simp only [State.ordered, List.length_append, List.length_cons]
  generalize hp : (fun m => match s.ticket m with
    | some b => standsAhead s.clock b a
    | none => false) = p
  have h := congrArg List.length (List.takeWhile_append_dropWhile (p := p) (l := list))
  rw [List.length_append] at h
  omega

/-! ### Admission -/

/-- A ticket as admission leaves it (R92, R93). -/
def Ticket.admitted (k : Ticket) : Ticket := { k with front := false, state := .live }

@[simp] theorem Ticket.admitted_refs (k : Ticket) : k.admitted.refs = k.refs := rfl
@[simp] theorem Ticket.admitted_tab (k : Ticket) : k.admitted.tab = k.tab := rfl
@[simp] theorem Ticket.admitted_station (k : Ticket) : k.admitted.station = k.station := rfl
@[simp] theorem Ticket.admitted_fired (k : Ticket) : k.admitted.fired = k.fired := rfl
@[simp] theorem Ticket.admitted_admitted (k : Ticket) : k.admitted.admitted = k.admitted := rfl

/-- What admission of one ticket does, with WAITING not empty. -/
theorem State.admitOne_spec (s : State) (d n : Nat) (rest : List Nat) (hd : isDrop d = true)
    (hw : (s.station d).waiting = n :: rest) :
    (∀ e, e ≠ d → (s.admitOne d).station e = s.station e) ∧
    (∃ live, (s.admitOne d).station d = { s.station d with live := live, waiting := rest } ∧
      live.length ≤ (s.station d).live.length + 1 ∧
      (∀ x, x ∈ live → x = n ∨ x ∈ (s.station d).live) ∧ ∀ x, x ∈ (s.station d).live → x ∈ live) ∧
    ∀ m, (s.admitOne d).ticket m = (s.ticket m).map fun k => if m = n then k.admitted else k := by
  simp only [State.admitOne, hw]
  have ht : ∀ m, ((s.setStation d { s.station d with waiting := rest }).editTicket n
      fun k => { k with front := false, state := .live }).ticket m = (s.ticket m).map fun k => if m = n then k.admitted else k := by
    intro m
    by_cases h : m = n
    · subst h; simp [Ticket.admitted]
    · simp [h]
  split
  · refine ⟨fun e he => by simp [he], ⟨(s.station d).live, by simp [hd], by simp, fun x h => .inr h, fun x h => h⟩, ht⟩
  · rename_i k hk
    refine ⟨fun e he => by simp [he], ⟨_, by simp [hd]; rfl, ?_, ?_, ?_⟩, ?_⟩
    · rw [State.length_ordered]
    · intro x hx
      rwa [State.mem_ordered] at hx
    · intro x hx
      rw [State.mem_ordered]
      exact .inr hx
    · intro m
      rw [State.ticket_setStation]
      exact ht m

/-- What admission does: some tickets `j` from the front of WAITING enter LIVE, which never passes the limit for it. -/
theorem State.admitMany_spec (d : Nat) (fuel : Nat) (s : State) :
    (∀ e, e ≠ d → (State.admitMany d fuel s).station e = s.station e) ∧
    ∃ j live, j ≤ (s.station d).waiting.length ∧
      (State.admitMany d fuel s).station d =
        { s.station d with live := live, waiting := (s.station d).waiting.drop j } ∧
      (live.length ≤ (s.station d).live.length ∨ live.length ≤ (s.station d).limit) ∧
      (∀ x, x ∈ live → x ∈ (s.station d).waiting.take j ∨ x ∈ (s.station d).live) ∧
      (∀ x, x ∈ (s.station d).live → x ∈ live) ∧
      (j = 0 → live = (s.station d).live) ∧
      ∀ m, (State.admitMany d fuel s).ticket m =
        (s.ticket m).map fun k => if m ∈ (s.station d).waiting.take j then k.admitted else k := by
  have none_case : ∀ u : State, (∀ e, e ≠ d → u.station e = u.station e) ∧
      ∃ j live, j ≤ (u.station d).waiting.length ∧
      u.station d = { u.station d with live := live, waiting := (u.station d).waiting.drop j } ∧
      (live.length ≤ (u.station d).live.length ∨ live.length ≤ (u.station d).limit) ∧
      (∀ x, x ∈ live → x ∈ (u.station d).waiting.take j ∨ x ∈ (u.station d).live) ∧
      (∀ x, x ∈ (u.station d).live → x ∈ live) ∧
      (j = 0 → live = (u.station d).live) ∧
      ∀ m, u.ticket m = (u.ticket m).map fun k => if m ∈ (u.station d).waiting.take j then k.admitted else k := by
    intro u
    exact ⟨fun _ _ => rfl, 0, (u.station d).live, by simp, by simp, .inl (le_refl _), fun x h => .inr h, fun x h => h,
      fun _ => rfl, fun m => by simp⟩
  induction fuel generalizing s with
  | zero => exact none_case s
  | succ n ih =>
    simp only [State.admitMany]
    split
    · rename_i hlt
      by_cases hd : isDrop d = true
      · rcases hw : (s.station d).waiting with _ | ⟨m0, rest⟩
        · have : s.admitOne d = s := by simp [State.admitOne, hw]
          rw [this]
          have := ih s
          rwa [hw] at this
        · obtain ⟨a1, ⟨lv, a2, a3, a4, a5⟩, a6⟩ := State.admitOne_spec s d m0 rest hd hw
          obtain ⟨b1, j, live, b2, b3, b4, b5, b6, b7, b8⟩ := ih (s.admitOne d)
          rw [a2] at b2 b3 b4 b5 b6 b7 b8
          refine ⟨fun e he => (b1 e he).trans (a1 e he), j + 1, live, by simpa using b2, by simpa using b3, ?_, ?_, ?_, ?_, ?_⟩
          · simp only at b4
            right
            rcases b4 with h | h <;> omega
          · intro x hx
            simp only [List.take_succ_cons, List.mem_cons]
            rcases b5 x hx with h | h
            · exact .inl (.inr h)
            · rcases a4 x h with h | h
              · exact .inl (.inl h)
              · exact .inr h
          · intro x hx
            exact b6 x (a5 x hx)
          · intro h
            omega
          · intro m
            rw [b8, a6]
            simp only [List.take_succ_cons, List.mem_cons, Option.map_map]
            congr 1
            funext k
            simp only [Function.comp]
            by_cases h1 : m ∈ rest.take j <;> by_cases h2 : m = m0 <;> simp [h1, h2]
      · rw [Bool.not_eq_true] at hd
        have : (s.station d).waiting = [] := by simp [State.station, hd, Station.cold]
        have : s.admitOne d = s := by simp [State.admitOne, this]
        rw [this]
        exact ih s
    · exact none_case s

/-- What admission does to a station (R93). -/
theorem State.fillLive_spec (s : State) (d : Nat) :
    (∀ e, e ≠ d → (s.fillLive d).station e = s.station e) ∧
    ∃ j live, j ≤ (s.station d).waiting.length ∧
      (s.fillLive d).station d = { s.station d with live := live, waiting := (s.station d).waiting.drop j } ∧
      (live.length ≤ (s.station d).live.length ∨ live.length ≤ (s.station d).limit) ∧
      (∀ x, x ∈ live → x ∈ (s.station d).waiting.take j ∨ x ∈ (s.station d).live) ∧
      (∀ x, x ∈ (s.station d).live → x ∈ live) ∧
      (j = 0 → live = (s.station d).live) ∧
      ∀ m, (s.fillLive d).ticket m =
        (s.ticket m).map fun k => if m ∈ (s.station d).waiting.take j then k.admitted else k :=
  State.admitMany_spec d _ s

/-- A ticket in no WAITING list of the station is not touched by admission. -/
theorem State.fillLive_ticket_out (s : State) (d m : Nat) (h : m ∉ (s.station d).waiting) : (s.fillLive d).ticket m = s.ticket m := by
  obtain ⟨-, j, live, -, -, -, -, -, -, ht⟩ := State.fillLive_spec s d
  have : m ∉ (s.station d).waiting.take j := fun hm => h (List.mem_of_mem_take hm)
  rw [ht]
  simp [this]

/-! ### The screen comparison -/

/-- Coming onto a screen: the first-on-screen time, if there is none (R94). -/
def Ticket.shownAt (k : Ticket) (clock : Nat) : Ticket := { k with firstShown := some (k.firstShown.getD clock) }

theorem State.markShown_fold (ns : List Nat) (s : State) (m : Nat) :
    (ns.foldl State.markShown s).ticket m = (s.ticket m).map fun k => if m ∈ ns then k.shownAt s.clock else k := by
  induction ns generalizing s with
  | nil => simp
  | cons n rest ih =>
    rw [List.foldl_cons, ih]
    by_cases h : m = n
    · subst h
      simp only [State.markShown, State.ticket_editTicket_same, Option.map_map, List.mem_cons, true_or, if_true]
      congr 1
      funext k
      simp only [Function.comp, State.editTicket_clock]
      split <;> simp [Ticket.shownAt]
    · simp [State.markShown, h]

/-- What a screen comparison does to the tickets (R94). -/
theorem State.syncScreen_ticket (s : State) (d : Nat) (before : List Nat) (b : Option Nat) (m : Nat) :
    (s.syncScreen d before b).ticket m =
      (s.ticket m).map fun k => if m ∈ s.screen d ∧ m ∉ before then k.shownAt s.clock else k := by
  have hf := State.post_frame (((s.screen d).filter fun n => !before.contains n).foldl State.markShown s) d
  simp only [State.syncScreen]
  rw [State.ticket_of ((hf _).tickets (by simp)), State.markShown_fold]
  simp

/-- A screen comparison reaches no other drop. -/
theorem State.post_other (s : State) (d : Nat) (ms : List Msg) (e : Nat) (h : e ≠ d) : (s.post d ms).drop e = s.drop e := by
  simp only [State.post]
  split
  · rfl
  · split <;> simp [State.redraw, h]

theorem State.markShown_fold_frame (ns : List Nat) (s : State) : SameBut [.tickets] s (ns.foldl State.markShown s) :=
  SameBut.foldl (fun s n => State.editTicket_frame s n _) ns s

theorem State.syncScreen_other (s : State) (d : Nat) (before : List Nat) (b : Option Nat) (e : Nat) (h : e ≠ d) :
    (s.syncScreen d before b).drop e = s.drop e := by
  simp only [State.syncScreen]
  rw [State.post_other _ _ _ _ h, State.drop_of ((State.markShown_fold_frame _ s).drops (by simp))]

/-- A message queue is all that a post changes of its drop. -/
theorem State.post_only (s : State) (d : Nat) (ms : List Msg) (e : Nat) :
    (s.post d ms).drop e = { s.drop e with messages := ((s.post d ms).drop e).messages } := by
  by_cases h : e = d
  · subst h
    by_cases hd : isDrop e = true
    · simp only [State.post]
      split
      · rfl
      · split <;> simp [State.redraw, hd]
    · rw [Bool.not_eq_true] at hd
      have hx : ∀ u : State, u.drop e = .cold := fun u => by simp [State.drop, hd]
      rw [hx, hx]
  · rw [State.post_other _ _ _ _ h]

theorem State.syncScreen_only (s : State) (d : Nat) (before : List Nat) (b : Option Nat) (e : Nat) :
    (s.syncScreen d before b).drop e = { s.drop e with messages := ((s.syncScreen d before b).drop e).messages } := by
  simp only [State.syncScreen]
  conv_lhs => rw [State.post_only]
  rw [State.drop_of ((State.markShown_fold_frame _ s).drops (by simp))]

/-- No post takes a queue past its sixteen places (R106, R107). -/
theorem State.post_fitsAll (s : State) (d : Nat) (ms : List Msg) (e : Nat) (h : (s.drop e).messages.length ≤ 16) :
    ((s.post d ms).drop e).messages.length ≤ 16 := by
  by_cases he : e = d
  · subst he
    by_cases hd : isDrop e = true
    · simp only [State.post]
      split
      · exact h
      · split
        · rename_i hl
          simp only [State.drop_setDrop_same _ _ _ hd, List.length_append]
          exact hl
        · simp only [State.redraw, State.drop_setDrop_same _ _ _ hd, State.redrawMsgs, List.length_take]
          exact Nat.min_le_left _ _
    · rw [Bool.not_eq_true] at hd
      simp [State.drop, hd, Drop.cold]
  · rwa [State.post_other _ _ _ _ he]

/-! ### Kills -/

theorem State.takeOut_station (s : State) (n d : Nat) (hd : isDrop d = true) :
    (s.takeOut n d).station d =
      { s.station d with live := (s.station d).live.filter (· != n), waiting := (s.station d).waiting.filter (· != n) } := by
  simp [State.takeOut, hd]

theorem State.takeOut_station_other (s : State) (n d e : Nat) (h : e ≠ d) : (s.takeOut n d).station e = s.station e := by
  simp [State.takeOut, h]

theorem State.takeOut_ticket (s : State) (n d m : Nat) :
    (s.takeOut n d).ticket m = (s.ticket m).map fun k => if m = n then { k with front := false } else k := by
  by_cases h : m = n
  · subst h; simp [State.takeOut]
  · simp [State.takeOut, h]

/-- A ticket that has been taken out stands in neither list of its station. -/
theorem State.takeOut_gone (s : State) (n d : Nat) :
    n ∉ ((s.takeOut n d).station d).live ∧ n ∉ ((s.takeOut n d).station d).waiting := by
  by_cases hd : isDrop d = true
  · rw [State.takeOut_station s n d hd]
    simp
  · rw [Bool.not_eq_true] at hd
    simp [State.station, hd, Station.cold]

/-- What a kill does to the ticket killed (R96). -/
theorem State.killTicket_killed (s : State) (n : Nat) (k : Ticket) (h : s.ticket n = some k) :
    (s.killTicket n).ticket n = some { k with front := false, state := .killed } ∧
    (isDrop k.station = true →
      n ∉ ((s.killTicket n).station k.station).live ∧ n ∉ ((s.killTicket n).station k.station).waiting) := by
  simp only [State.killTicket, h]
  set s1 := (s.takeOut n k.station).editTicket n fun k => { k with state := .killed } with hs1
  set s2 := (if k.state = .live then s1.fillLive k.station else s1) with hs2
  have hg : n ∉ (s1.station k.station).live ∧ n ∉ (s1.station k.station).waiting := State.takeOut_gone s n k.station
  have h1 : s1.ticket n = some { k with front := false, state := .killed } := by
    simp [hs1, State.takeOut_ticket, h]
  have h2 : s2.ticket n = some { k with front := false, state := .killed } := by
    rw [hs2]
    split
    · rw [State.fillLive_ticket_out _ _ _ hg.2, h1]
    · exact h1
  have hg2 : n ∉ (s2.station k.station).live ∧ n ∉ (s2.station k.station).waiting := by
    rw [hs2]
    split
    · obtain ⟨-, j, live, -, e, -, hl, -, -, -⟩ := State.fillLive_spec s1 k.station
      rw [e]
      refine ⟨fun hx => ?_, fun hx => hg.2 (List.mem_of_mem_drop hx)⟩
      rcases hl n hx with h | h
      · exact hg.2 (List.mem_of_mem_take h)
      · exact hg.1 h
    · exact hg
  have hlw : ∀ d, ((s2.clearRefs (· == n)).station d).live = (s2.station d).live ∧
      ((s2.clearRefs (· == n)).station d).waiting = (s2.station d).waiting ∧
      ((s2.clearRefs (· == n)).station d).depth = (s2.station d).depth := by
    intro d
    rw [State.clearRefs_station]
    split
    · split <;> simp
    · simp
  have hns : n ∉ (s2.clearRefs (· == n)).screen k.station := by
    simp only [State.screen]
    rw [(hlw _).1]
    exact fun hx => hg2.1 (List.mem_of_mem_take hx)
  have hf := State.clearRefs_frame s2 (· == n)
  refine ⟨?_, fun _ => ?_⟩
  · rw [State.syncScreen_ticket, State.ticket_of (hf.tickets (by simp)), h2]
    simp [hns]
  · have hfs := State.syncScreen_frame (s2.clearRefs (· == n)) k.station (s.screen k.station) none
    rw [State.station_of (hfs.stations (by simp)), (hlw _).1, (hlw _).2.1]
    exact hg2

/-- What a kill does to any other ticket: admission may make it LIVE and it may come onto the screen (R96). -/
theorem State.killTicket_other (s : State) (n m : Nat) (h : m ≠ n) (k : Ticket) (hk : s.ticket m = some k) :
    ∃ k', (s.killTicket n).ticket m = some k' ∧
      (k' = k ∨ k' = k.shownAt s.clock ∨
        ((∃ x, s.ticket n = some x ∧ x.state = .live) ∧ (k' = k.admitted ∨ k' = k.admitted.shownAt s.clock))) := by
  rcases hn : s.ticket n with _ | x
  · exact ⟨k, by simp [State.killTicket, hn, hk], .inl rfl⟩
  · simp only [State.killTicket, hn]
    set s1 := (s.takeOut n x.station).editTicket n fun k => { k with state := .killed } with hs1
    set s2 := (if x.state = .live then s1.fillLive x.station else s1) with hs2
    have h1 : s1.ticket m = some k := by simp [hs1, State.takeOut_ticket, h, hk]
    have hc2 : s2.clock = s.clock := by
      rw [hs2]
      split
      · rw [(State.fillLive_frame s1 x.station).clock (by simp)]; rfl
      · rfl
    have h2 : s2.ticket m = some k ∨ (x.state = .live ∧ s2.ticket m = some k.admitted) := by
      rw [hs2]
      split
      · rename_i hl
        obtain ⟨-, j, live, -, -, -, -, -, -, ht⟩ := State.fillLive_spec s1 x.station
        rw [ht, h1]
        by_cases hm : m ∈ (s1.station x.station).waiting.take j
        · exact .inr ⟨hl, by simp [hm]⟩
        · exact .inl (by simp [hm])
      · exact .inl h1
    have hf := State.clearRefs_frame s2 (· == n)
    rw [State.syncScreen_ticket, State.ticket_of (hf.tickets (by simp)), hf.clock (by simp), hc2]
    rcases h2 with h2 | ⟨hl, h2⟩ <;> rw [h2]
    · refine ⟨_, rfl, ?_⟩
      split
      · exact .inr (.inl rfl)
      · exact .inl rfl
    · refine ⟨_, rfl, .inr (.inr ⟨⟨x, rfl, hl⟩, ?_⟩)⟩
      split
      · exact .inr rfl
      · exact .inl rfl

end Sys2Proof.Machine
end

