-- ==== Sys2Proof/Laws/Limits.lean ====
section
/-! SUPPORT. Laws/Limits.lean: what a change of the load limit does to LIVE and WAITING: admission while there is room (R93), and the cut in fire order (R104). -/

namespace Sys2Proof.Machine

theorem State.insertFired_perm (s : State) (n : Nat) (l : List Nat) : (s.insertFired n l).Perm (n :: l) := by
  induction l with
  | nil => exact List.Perm.refl _
  | cons m r ih =>
    simp only [State.insertFired]
    split
    · split
      · exact List.Perm.refl _
      · exact (ih.cons m).trans (List.Perm.swap n m r)
    · exact List.Perm.refl _

theorem State.inFireOrder_perm (s : State) (l : List Nat) : (s.inFireOrder l).Perm l := by
  induction l with
  | nil => exact List.Perm.refl _
  | cons n r ih => 
    simp only [State.inFireOrder, List.foldr_cons] at ih ⊢
    exact (State.insertFired_perm s n _).trans (ih.cons n)

/-- Sending tickets back one after another: the last of them stands foremost in WAITING (R104). -/
theorem State.sendBack_fold (d : Nat) (hd : isDrop d = true) (ns : List Nat) (s : State) :
    SameBut [.stations, .tickets] s (ns.foldl (State.sendBack d) s) ∧
    (∀ e, e ≠ d → (ns.foldl (State.sendBack d) s).station e = s.station e) ∧
    (ns.foldl (State.sendBack d) s).station d = { s.station d with live := (s.station d).live.filter (fun x => !ns.contains x), waiting := ns.reverse ++ (s.station d).waiting } := by
  induction ns generalizing s with
  | nil => refine ⟨SameBut.refl _ _, fun _ _ => rfl, ?_⟩; simp
  | cons n r ih =>
    obtain ⟨a, b, c⟩ := ih (State.sendBack d s n)
    have f : SameBut [.stations, .tickets] s (State.sendBack d s n) := (State.setStation_frame _ _ _).step (State.editTicket_frame _ _ _) (by simp) (by simp)
    refine ⟨f.trans a, fun e he => (b e he).trans (by simp [State.sendBack, he]), ?_⟩
    rw [List.foldl_cons, c]
    simp [State.sendBack, hd]
    congr 1
    funext x
    by_cases h : x = n <;> simp [h]

/-- The ordered place keeps the list's tickets and their order (R92). -/
theorem State.ordered_perm (s : State) (list : List Nat) (n : Nat) (a : Ticket) : (s.ordered list n a).Perm (n :: list) := by
  simp only [State.ordered]
  refine List.perm_middle.trans (List.Perm.cons _ ?_)
  rw [List.takeWhile_append_dropWhile]

theorem State.ordered_sublist (s : State) (list : List Nat) (n : Nat) (a : Ticket) : list.Sublist (s.ordered list n a) := by
  simp only [State.ordered]
  conv_lhs => rw [← List.takeWhile_append_dropWhile (p := fun m => match s.ticket m with
    | some b => standsAhead s.clock b a
    | none => false) (l := list)]
  exact List.Sublist.append (List.Sublist.refl _) (List.sublist_cons_self _ _)

theorem State.admitOne_full (s : State) (d n : Nat) (rest : List Nat) (hd : isDrop d = true) (hw : (s.station d).waiting = n :: rest) (k : Ticket) (hk : s.ticket n = some k) :
    ∃ live, (s.admitOne d).station d = { s.station d with live := live, waiting := rest } ∧ live.Perm (n :: (s.station d).live) ∧ (s.station d).live.Sublist live := by
  simp only [State.admitOne, hw]
  have ht : ((s.setStation d { s.station d with waiting := rest }).editTicket n fun k => { k with front := false, state := .live }).ticket n = some k.admitted := by
    simp [hk, Ticket.admitted]
  rw [ht]
  refine ⟨_, by simp [hd]; rfl, ?_, ?_⟩
  · exact State.ordered_perm _ _ _ _
  · exact State.ordered_sublist _ _ _ _

/-- Admission when every waiting ticket is there: as many as there is room for (R93). -/
theorem State.admitMany_full (d : Nat) (hd : isDrop d = true) : ∀ (fuel : Nat) (s : State), fuel = (s.station d).waiting.length → (∀ n ∈ (s.station d).waiting, s.ticket n ≠ none) →
    ∃ live, (State.admitMany d fuel s).station d = { s.station d with live := live, waiting := (s.station d).waiting.drop (min (s.station d).waiting.length ((s.station d).limit - (s.station d).live.length)) } ∧
      live.Perm ((s.station d).live ++ (s.station d).waiting.take (min (s.station d).waiting.length ((s.station d).limit - (s.station d).live.length))) ∧ (s.station d).live.Sublist live := by
  intro fuel
  induction fuel with
  | zero =>
    intro s h _
    refine ⟨(s.station d).live, ?_, ?_, List.Sublist.refl _⟩
    · rw [← h]; simp [State.admitMany]
    · rw [← h]; simp
  | succ f ih =>
    intro s h hx
    simp only [State.admitMany]
    split
    · rename_i hlt
      rcases hw : (s.station d).waiting with _ | ⟨n, rest⟩
      · rw [hw] at h; simp at h
      · rw [hw] at h hx
        obtain ⟨k, hk⟩ := Option.ne_none_iff_exists'.mp (hx n (by simp))
        obtain ⟨lv, e1, e2, e3⟩ := State.admitOne_full s d n rest hd hw k hk
        obtain ⟨-, -, hat⟩ := State.admitOne_spec s d n rest hd hw
        have hx' : ∀ m ∈ ((s.admitOne d).station d).waiting, (s.admitOne d).ticket m ≠ none := by
          rw [e1]; intro m hm
          rw [hat]
          have := hx m (by simp at hm; simp [hm])
          cases h : s.ticket m <;> simp_all
        obtain ⟨live, g1, g2, g3⟩ := ih (s.admitOne d) (by rw [e1]; simpa using h) hx'
        rw [e1] at g1 g2 g3
        have hl : lv.length = (s.station d).live.length + 1 := by rw [e2.length_eq]; rfl
        have hroom : min (n :: rest).length ((s.station d).limit - (s.station d).live.length) = min rest.length ((s.station d).limit - lv.length) + 1 := by
          simp only [List.length_cons, hl]; omega
        refine ⟨live, ?_, ?_, e3.trans g3⟩
        · rw [g1, hroom]; simp
        · rw [hroom]
          refine g2.trans ?_
          simp only [List.take_succ_cons]
          refine (List.Perm.append_right _ e2).trans ?_
          exact (List.perm_middle (l₁ := (s.station d).live)).symm
    · rename_i hlt
      refine ⟨(s.station d).live, ?_, ?_, List.Sublist.refl _⟩
      · have : (s.station d).limit - (s.station d).live.length = 0 := by omega
        simp [this]
      · have : (s.station d).limit - (s.station d).live.length = 0 := by omega
        simp [this]

theorem firedBefore_left (c : Nat) (a b x : Ticket) (h1 : firedBefore c a b = true) (h2 : firedBefore c x b = false) : firedBefore c x a = false := by
  simp only [firedBefore, Bool.or_eq_true, Bool.and_eq_true, decide_eq_true_eq, beq_iff_eq] at *
  simp only [Bool.or_eq_false_iff, Bool.and_eq_false_iff, decide_eq_false_iff_not, beq_eq_false_iff_ne, ne_eq] at *
  omega

/-- In fire order: no later ticket fired before an earlier. -/
def State.InFireOrder (s : State) (l : List Nat) : Prop := l.Pairwise fun a b => ∀ ka kb, s.ticket a = some ka → s.ticket b = some kb → firedBefore s.clock kb ka = false

theorem firedBefore_asymm (c : Nat) (a b : Ticket) (h : firedBefore c a b = true) : firedBefore c b a = false := by
  simp only [firedBefore, Bool.or_eq_true, Bool.and_eq_true, decide_eq_true_eq, beq_iff_eq] at *
  simp only [Bool.or_eq_false_iff, Bool.and_eq_false_iff, decide_eq_false_iff_not, beq_eq_false_iff_ne, ne_eq] at *
  omega

theorem State.insertFired_order (s : State) (n : Nat) (kn : Ticket) (hn : s.ticket n = some kn) (l : List Nat) (hl : ∀ m ∈ l, s.ticket m ≠ none) (h : State.InFireOrder s l) : State.InFireOrder s (s.insertFired n l) := by
  induction l with
  | nil => simp [State.insertFired, State.InFireOrder]
  | cons m r ih =>
    obtain ⟨km, hm⟩ := Option.ne_none_iff_exists'.mp (hl m (by simp))
    have h' := List.pairwise_cons.mp h
    simp only [State.insertFired, hn, hm]
    split
    · rename_i hb
      refine List.pairwise_cons.mpr ⟨?_, h⟩
      intro y hy ka kb ha hb'
      rw [hn] at ha; cases ha
      rcases List.mem_cons.mp hy with rfl | hy
      · rw [hm] at hb'; cases hb'; exact firedBefore_asymm _ _ _ hb
      · exact firedBefore_left _ _ _ _ hb (h'.1 y hy km kb hm hb')
    · rename_i hb
      refine List.pairwise_cons.mpr ⟨?_, ih (fun x hx => hl x (by simp [hx])) h'.2⟩
      intro y hy ka kb ha hb'
      rw [hm] at ha; cases ha
      rcases List.mem_cons.mp ((State.insertFired_perm s n r).mem_iff.mp hy) with rfl | hy
      · rw [hn] at hb'; cases hb'; simpa using hb
      · exact h'.1 y hy km kb hm hb'

/-- Putting tickets in fire order does so (R104). -/
theorem State.inFireOrder_order (s : State) (l : List Nat) (hl : ∀ m ∈ l, s.ticket m ≠ none) : State.InFireOrder s (s.inFireOrder l) := by
  induction l with
  | nil => simp [State.inFireOrder, State.InFireOrder]
  | cons n r ih =>
    obtain ⟨kn, hn⟩ := Option.ne_none_iff_exists'.mp (hl n (by simp))
    have := ih (fun x hx => hl x (by simp [hx]))
    simp only [State.inFireOrder, List.foldr_cons] at this ⊢
    exact State.insertFired_order s n kn hn _ (fun m hm => hl m (by
      have := (State.inFireOrder_perm s r).mem_iff (a := m)
      simp only [State.inFireOrder] at this
      simp [this.mp hm])) this

theorem FiredAfter.of_not (c : Nat) (a b : Ticket) (h : firedBefore c a b = false) : FiredAfter c a b := by
  simp only [firedBefore, Bool.or_eq_false_iff, Bool.and_eq_false_iff, decide_eq_false_iff_not, beq_eq_false_iff_ne, ne_eq, FiredAfter] at *
  omega

theorem State.sendBack_ticket (d : Nat) (ns : List Nat) (s : State) (m : Nat) :
    (ns.foldl (State.sendBack d) s).ticket m = (s.ticket m).map fun k => if m ∈ ns then { k with state := .waiting, front := true } else k := by
  induction ns generalizing s with
  | nil => simp
  | cons n r ih =>
    rw [List.foldl_cons, ih]
    simp only [State.sendBack]
    by_cases h : m = n
    · subst h
      simp [Option.map_map]
      congr 1; funext k; by_cases h2 : m ∈ r <;> simp [h2]
    · simp [h]

end Sys2Proof.Machine
end

