-- ==== Sys2Proof/Laws/Owners.lean ====
section
/-! SUPPORT. Laws/Owners.lean: what each request's owner, and each of the part's own events, leaves alone; and how a law that all
of them keep is kept by every step. -/

namespace Sys2Proof.Machine

/-! ### The menu table -/

theorem loadItem_frame (item kind : Nat) (name : List Byte) (price cls route prep restricted low : Nat) (s : State) :
    SameBut [.items] s (loadItem item kind name price cls route prep restricted low s).1 := by
  unfold loadItem
  repeat' split
  all_goals first
    | exact SameBut.refl _ s
    | exact State.setItem_frame s _ _
    | (constructor <;> intro h <;> first | rfl | exact absurd (by simp) h)

theorem setPrice_frame (item price : Nat) (s : State) : SameBut [.items] s (setPrice item price s).1 := by
  unfold setPrice
  repeat' split
  all_goals first | exact SameBut.refl _ s | exact State.setItem_frame s _ _

theorem setStock_frame (item : Nat) (stock : Option Nat) (s : State) : SameBut [.items] s (setStock item stock s).1 := by
  unfold setStock
  repeat' split
  all_goals first | exact SameBut.refl _ s | exact State.setItem_frame s _ _

theorem loadTax_frame (cls rate : Nat) (s : State) : SameBut [.taxRates] s (loadTax cls rate s).1 := by
  unfold loadTax
  split
  · exact SameBut.refl _ s
  · exact State.setTaxRate_frame s _ _

theorem markSoldOut_frame (item : Nat) (s : State) : SameBut [.items, .alerts, .alertsFull, .drops] s (markSoldOut item s).1 := by
  unfold markSoldOut
  split
  · exact SameBut.refl _ s
  · exact ((State.setItem_frame s _ _).step (State.enterAlert_frame _ _ _) (by simp) (by simp)).step
      (State.notifyPresent_frame _ _) (List.Subset.refl _) (by simp)

/-! ### The tab store -/

theorem openTab_frame (src kind : Nat) (label : List Byte) (s : State) : SameBut [.tabs, .tabCounter] s (openTab src kind label s).1 := by
  unfold openTab
  repeat' split
  all_goals first | exact SameBut.refl _ s | (constructor <;> intro h <;> first | rfl | exact absurd (by simp) h)

theorem addLine_frame (tab rev item qty : Nat) (mods : List Nat) (s : State) :
    SameBut [.tabs, .items, .alerts, .alertsFull, .drops] s (addLine tab rev item qty mods s).1 := by
  unfold addLine addLineTo
  split
  · exact SameBut.refl _ s
  · split
    · exact SameBut.refl _ s
    · split
      · exact SameBut.refl _ s
      · split
        · exact SameBut.refl _ s
        · dsimp only
          split
          · exact SameBut.refl _ s
          · split
            · exact (State.enterAlert_frame s _ _).mono (by simp)
            · split
              · exact SameBut.refl _ s
              · exact SameBut.step (ps := [.tabs, .items, .alerts, .alertsFull, .drops])
                  ((State.reserve_frame s _ _ _).step (State.setTab_frame _ _ _) (by simp) (by simp)) (State.poolCheck_frame _)
                  (List.Subset.refl _) (by simp)

theorem voidOnTicket_frame (s : State) (n ix : Nat) : SameBut [.tabs, .tickets, .views, .stations, .drops] s (s.voidOnTicket n ix) := by
  unfold State.voidOnTicket
  split
  · exact SameBut.refl _ s
  · dsimp only
    split
    · exact (((State.editTicket_frame s n _).step (State.killTicket_frame _ _) (by simp) (by simp)).step
        (State.retireCheck_frame _ _) (List.Subset.refl _) (by simp))
    · split
      · exact (State.editTicket_frame s n _).step (State.post_frame _ _ _) (by simp) (by simp)
      · exact (State.editTicket_frame s n _).mono (by simp)

theorem voidLine_frame (tab rev index : Nat) (s : State) :
    SameBut [.tabs, .items, .tickets, .views, .stations, .drops] s (voidLine tab rev index s).1 := by
  have hb : ∀ (b : Bool) (l : Line) (t : Tab),
      SameBut [.tabs, .items, .tickets, .views, .stations, .drops] s ((if b = true then s.restore l else s).setTab tab t) := fun b l t =>
    SameBut.step (SameBut.ite (fun _ => State.restore_frame s l) fun _ => SameBut.refl _ s) (State.setTab_frame _ _ _) (by simp) (by simp)
  unfold voidLine voidLineOf
  split
  · exact SameBut.refl _ s
  · split
    · exact SameBut.refl _ s
    · dsimp only
      split
      · exact (hb _ _ _).step (voidOnTicket_frame _ _ _) (List.Subset.refl _) (by simp)
      · exact hb _ _ _

theorem setLabel_frame (tab rev : Nat) (label : List Byte) (s : State) : SameBut [.tabs] s (setLabel tab rev label s).1 := by
  unfold setLabel
  repeat' split
  all_goals first | exact SameBut.refl _ s | exact State.setTab_frame s _ _

theorem setService_frame (tab rev rate : Nat) (s : State) : SameBut [.tabs] s (setService tab rev rate s).1 := by
  unfold setService
  split
  all_goals first | exact SameBut.refl _ s | exact State.setTab_frame s _ _

theorem closeEmpty_frame (tab rev : Nat) (s : State) : SameBut [.tabs, .tickets, .views, .stations] s (closeEmpty tab rev s).1 := by
  unfold closeEmpty
  repeat' split
  all_goals first | exact SameBut.refl _ s | exact State.removeTab_frame s _

theorem mergeInto_frame (tabA tabB : Nat) (a b : Tab) (s : State) :
    SameBut [.tabs, .tickets, .views, .stations] s (mergeInto tabA tabB a b s) := by
  constructor <;> intro h <;> first | rfl | exact absurd (by simp) h

theorem mergeTabs_frame (tabA revA tabB revB : Nat) (s : State) :
    SameBut [.tabs, .tickets, .views, .stations, .freeDraws] s (mergeTabs tabA revA tabB revB s).1 := by
  have hf : ∀ a b, SameBut [.freeDraws] s (firstNewIndex a b s).1 := fun a b => by
    unfold firstNewIndex
    split
    · constructor <;> intro h <;> first | rfl | exact absurd (by simp) h
    · exact SameBut.refl _ s
  unfold mergeTabs
  repeat' split
  all_goals first
    | exact SameBut.refl _ s
    | exact (hf _ _).step (mergeInto_frame _ _ _ _ _) (by simp) (by simp)

theorem findTab_frame (form start : Nat) (key : List Byte) (s : State) : (findTab form start key s).1 = s := by
  unfold findTab
  split <;> rfl

theorem readTab_frame (src tab page : Nat) (s : State) : SameBut [.views] s (readTab src tab page s).1 := by
  unfold readTab
  split
  · exact SameBut.ite (fun _ => State.setView_frame s _ _) fun _ => SameBut.refl _ s
  · split
    · exact SameBut.refl _ s
    · exact State.setView_frame s _ _

/-! ### The kitchen router -/

theorem sendRequest_frame (tab : Nat) (hold rush : Bool) (s : State) :
    SameBut (.views :: sendParts) s (sendRequest tab hold rush s).1 := by
  unfold sendRequest sendOf
  repeat' split
  all_goals try exact SameBut.refl _ s
  all_goals
    rename_i h _
    first
    | exact (State.sendTab_frame h).step (State.retireCheck_frame _ _) (by simp) (by simp)
    | exact (State.sendTab_frame h).mono (by simp)

theorem fireRequest_frame (tab : Nat) (s : State) : SameBut [.stations, .tickets, .fireCount, .drops] s (fireRequest tab s).1 := by
  unfold fireRequest
  split
  · exact SameBut.refl _ s
  · exact State.fireAll_frame s _

theorem killRequest_frame (n : Nat) (s : State) : SameBut [.tabs, .items, .tickets, .views, .stations, .drops] s (killRequest n s).1 := by
  unfold killRequest
  split
  · exact SameBut.refl _ s
  · split
    · exact SameBut.refl _ s
    · exact ((((State.killTicket_frame s n).step (State.restoreTicket_frame _ _) (List.subset_append_left _ [.items])
        (by simp)).step (State.editTab_frame _ _ _) (List.subset_append_left _ [.tabs]) (by simp)).step
        (State.retireCheck_frame _ _) (by simp) (by simp))

theorem bumpTicket_frame (d n : Nat) (k : Ticket) (s : State) : SameBut [.tabs, .tickets, .stations, .drops] s (bumpTicket d n k s) := by
  unfold bumpTicket
  refine SameBut.step (SameBut.step (ps := [.tabs, .tickets, .stations, .drops]) ?_ (State.fillLive_frame _ _) (List.Subset.refl _) (by simp))
    (State.syncScreen_frame _ _ _ _) (List.Subset.refl _) (by simp)
  refine SameBut.step (SameBut.step (ps := [.tabs, .tickets, .stations]) ?_ (State.setStation_frame _ _ _) (List.Subset.refl _) (by simp))
    (State.notify_frame _ _ _) (by simp) (by simp)
  exact ((State.takeOut_frame s n d).step (State.editTicket_frame _ _ _) (List.Subset.refl _) (by simp)).step (State.editTab_frame _ _ _)
    (by simp) (by simp)

theorem bumpRequest_frame (d n : Nat) (s : State) : SameBut [.tabs, .tickets, .views, .stations, .drops] s (bumpRequest d n s).1 := by
  unfold bumpRequest
  split
  · exact SameBut.refl _ s
  · refine SameBut.step (ps := [.tabs, .tickets, .views, .stations, .drops]) ?_ (State.retireCheck_frame _ _) (List.Subset.refl _) (by simp)
    split
    · exact (bumpTicket_frame d n _ s).step (State.retireCheck_frame _ _) (by simp) (by simp)
    · exact (bumpTicket_frame d n _ s).mono (by simp)

theorem sendBack_frame (d : Nat) (s : State) (n : Nat) : SameBut [.stations, .tickets] s (State.sendBack d s n) :=
  (State.setStation_frame s d _).step (State.editTicket_frame _ n _) (by simp) (by simp)

theorem makeRoom_frame (s : State) (d : Nat) : SameBut [.stations, .tickets] s (s.makeRoom d) := by
  unfold State.makeRoom
  dsimp only
  split
  · exact SameBut.ite (fun _ => sendBack_frame d s _) fun _ => SameBut.refl _ s
  · exact SameBut.refl _ s

theorem recallTicket_frame (d n : Nat) (k : Ticket) (s : State) : SameBut [.tabs, .tickets, .stations, .drops] s (recallTicket d n k s) := by
  unfold recallTicket
  refine SameBut.step (ps := [.tabs, .tickets, .stations, .drops]) ?_ (State.syncScreen_frame _ _ _ _) (List.Subset.refl _) (by simp)
  refine SameBut.step (ps := [.tabs, .tickets, .stations]) ?_ (State.notify_frame _ _ _) (by simp) (by simp)
  refine SameBut.step (ps := [.tickets, .stations]) ?_ (State.editTab_frame _ _ _) (by simp) (by simp)
  exact (((State.setStation_frame s d _).step (makeRoom_frame _ d) (by simp) (List.Subset.refl _)).step (State.setStation_frame _ _ _)
    (List.Subset.refl _) (by simp)).step (State.editTicket_frame _ _ _) (by simp) (by simp)

theorem recallRequest_frame (d : Nat) (s : State) : SameBut [.tabs, .tickets, .stations, .drops] s (recallRequest d s).1 := by
  unfold recallRequest
  repeat' split
  all_goals first | exact SameBut.refl _ s | exact recallTicket_frame d _ _ s

theorem redrawRequest_frame (d : Nat) (s : State) : SameBut [.drops] s (redrawRequest d s).1 := State.redraw_frame s d

theorem relimit_frame (s : State) (d old : Nat) : SameBut [.stations, .tickets] s (s.relimit d old) := by
  unfold State.relimit
  exact SameBut.ite (fun _ => State.fillLive_frame s d) fun _ =>
    SameBut.ite (fun _ => SameBut.foldl (fun s n => sendBack_frame d s n) _ s) fun _ => SameBut.refl _ s

theorem loadStation_frame (d depth limit crew fallback prep interval : Nat) (s : State) :
    SameBut [.tickets, .stations, .drops] s (loadStation d depth limit crew fallback prep interval s).1 := by
  unfold loadStation
  split
  · exact SameBut.refl _ s
  · exact ((State.setStation_frame s d _).step (relimit_frame _ d _) (by simp) (List.Subset.refl _)).step (State.syncScreen_frame _ _ _ _)
      (by simp) (by simp)

theorem quoteRequest_frame (item : Nat) (s : State) : (quoteRequest item s).1 = s := by
  unfold quoteRequest
  repeat' split
  all_goals rfl

/-! ### The settlement unit -/

theorem splitRequest_frame (tab rev n : Nat) (entries : List SplitEntry) (s : State) :
    SameBut [.tabs] s (splitRequest tab rev n entries s).1 := by
  unfold splitRequest splitOf
  repeat' split
  all_goals first | exact SameBut.refl _ s | exact State.setTab_frame s _ _

theorem assignRequest_frame (tab rev index : Nat) (set : BitVec 12) (s : State) :
    SameBut [.tabs] s (assignRequest tab rev index set s).1 := by
  unfold assignRequest
  repeat' split
  all_goals first | exact SameBut.refl _ s | exact State.setTab_frame s _ _

theorem unsplitRequest_frame (tab rev : Nat) (s : State) : SameBut [.tabs] s (unsplitRequest tab rev s).1 := by
  unfold unsplitRequest
  split
  all_goals first | exact SameBut.refl _ s | exact State.setTab_frame s _ _

theorem tenderBegin_frame (src tab share : Nat) (s : State) : SameBut [.tabs, .holds] s (tenderBegin src tab share s).1 := by
  unfold tenderBegin
  repeat' split
  all_goals first
    | exact SameBut.refl _ s
    | exact (State.setTab_frame s _ _).step (State.setHold_frame _ _ _) (by simp) (by simp)
    | exact (State.setTab_frame s _ _).mono (by simp)

theorem releaseShare_frame (s : State) (tab share till : Nat) (t : Tab) (x : Share) :
    SameBut [.tabs, .holds] s (s.releaseShare tab share till t x) :=
  (State.setTab_frame s _ _).step (State.setHold_frame _ _ _) (by simp) (by simp)

theorem tenderCancel_frame (src tab share : Nat) (s : State) : SameBut [.tabs, .holds] s (tenderCancel src tab share s).1 := by
  unfold tenderCancel
  repeat' split
  all_goals first | exact SameBut.refl _ s | exact releaseShare_frame s _ _ _ _ _

theorem credit_frame (s : State) (till : Nat) (c : Drawer) : SameBut [.drawers, .alerts, .alertsFull] s (s.credit till c) := by
  unfold State.credit
  exact SameBut.ite (fun _ => (State.setDrawer_frame s _ _).step (State.enterAlert_frame _ _ _) (by simp) (by simp))
    fun _ => (State.setDrawer_frame s _ _).mono (by simp)

theorem autoSend_frame (s : State) (n : Nat) (t : Tab) : SameBut sendParts s (s.autoSend n t) := by
  unfold State.autoSend
  split
  · exact SameBut.refl _ s
  · split
    · exact (State.enterAlert_frame s _ _).mono (by simp)
    · rename_i h
      exact State.sendTab_frame h

theorem settle_frame (s : State) (n : Nat) (t : Tab) : SameBut (.views :: sendParts) s (s.settle n t) :=
  (((State.setTab_frame s n _).step (autoSend_frame _ n _) (by simp) (List.Subset.refl _)).step (State.retireCheck_frame _ n)
    (by simp) (by simp))

/-- The fields a TENDER-COMMIT may change. -/
abbrev commitParts : List Part := .views :: .holds :: .drawers :: sendParts

theorem acceptTender_frame (src tab share : Nat) (kind : TenderKind) (tendered tip change excess : Nat) (t : Tab) (x : Share) (s : State) :
    SameBut commitParts s (acceptTender src tab share kind tendered tip change excess t x s).1 := by
  unfold acceptTender
  have h : ∀ t1 c, SameBut commitParts s (((s.setTab tab t1).setHold src none).credit src c) := fun t1 c =>
    ((State.setTab_frame s _ _).step (State.setHold_frame _ _ _) (List.subset_append_left _ [.holds]) (by simp)).step
      (credit_frame _ _ _) (by simp) (by simp)
  exact SameBut.ite (fun _ => (h _ _).step (settle_frame _ _ _) (List.Subset.refl _) (by simp)) fun _ => h _ _

theorem tenderCommit_frame (src tab share kind tendered tip : Nat) (s : State) :
    SameBut commitParts s (tenderCommit src tab share kind tendered tip s).1 := by
  unfold tenderCommit
  repeat' split
  all_goals first | exact SameBut.refl _ s | exact acceptTender_frame _ _ _ _ _ _ _ _ _ _ _

theorem readDrawer_frame (d : Nat) (s : State) : (readDrawer d s).1 = s := by
  unfold readDrawer
  split <;> rfl

theorem closeDrawer_frame (d : Nat) (s : State) : SameBut [.drawers] s (closeDrawer d s).1 := by
  unfold closeDrawer
  split
  · exact SameBut.refl _ s
  · exact State.setDrawer_frame s _ _

theorem killAndRestore_frame (s : State) (n : Nat) : SameBut [.items, .stations, .tickets, .drops] s (s.killAndRestore n) := by
  unfold State.killAndRestore
  split
  · exact SameBut.refl _ s
  · exact (State.killTicket_frame s n).step (State.restoreTicket_frame _ _) (by simp) (by simp)

theorem writeOffTab_frame (s : State) (n : Nat) (t : Tab) :
    SameBut [.tabs, .items, .tickets, .stations, .drops, .writeOffTotal] s (s.writeOffTab n t) := by
  have h0 : SameBut [.writeOffTotal] s { s with writeOffTotal := addCapped s.writeOffTotal (writeOffAmount t).1 } := by
    constructor <;> intro h <;> first | rfl | exact absurd (by simp) h
  unfold State.writeOffTab
  refine SameBut.step (ps := [.tabs, .items, .writeOffTotal]) ?_ (SameBut.foldl (fun s n => killAndRestore_frame s n) _ _) (by simp) (by simp)
  exact (h0.step (SameBut.foldl (fun s l => State.restore_frame s l) _ _) (List.subset_append_left _ [.items]) (by simp)).step
    (State.setTab_frame _ _ _) (by simp) (by simp)

theorem writeOff_frame (n : Nat) (s : State) :
    SameBut [.tabs, .items, .tickets, .views, .stations, .drops, .writeOffTotal] s (writeOff n s).1 := by
  unfold writeOff
  repeat' split
  all_goals first
    | exact SameBut.refl _ s
    | exact (writeOffTab_frame s n _).step (State.retireCheck_frame _ _) (by simp) (by simp)

/-! ### The part itself -/

theorem changePeriod_frame (s : State) (p : Period) : SameBut [.period, .drops] s (s.changePeriod p) := by
  have h0 : SameBut [.period] s { s with period := p } := by
    constructor <;> intro h <;> first | rfl | exact absurd (by simp) h
  exact h0.step (State.notifyPresent_frame _ _) (by simp) (by simp)

theorem setPeriod_frame (target : Nat) (s : State) : SameBut [.period, .drops] s (setPeriod target s).1 := by
  unfold setPeriod
  repeat' split
  all_goals first | exact SameBut.refl _ s | exact changePeriod_frame s _

theorem endDay_frame (s : State) :
    SameBut [.period, .drops, .drawers, .writeOffTotal, .tabCounter, .ticketCounter, .stations, .alerts, .alertsFull] s (endDay s).1 := by
  have h0 : SameBut [.drawers, .writeOffTotal, .tabCounter, .ticketCounter, .stations, .alerts, .alertsFull] s s.dayClear := by
    constructor <;> intro h <;> first | rfl | exact absurd (by simp) h
  exact h0.step (changePeriod_frame _ _) (by simp) (by simp)

theorem clearDrops_frame (s : State) (l : Fin 4) : SameBut [.drops] s (s.clearDrops l) := SameBut.foldl (fun s d => State.setDrop_frame s d _) _ s

theorem clearViews_frame (s : State) (l : Fin 4) : SameBut [.views] s (s.clearViews l) := SameBut.foldl (fun s d => State.setView_frame s d _) _ s

theorem restartLane_frame (s : State) (l : Fin 4) : SameBut [.lanes, .drops, .views] s (s.restartLane l) :=
  ((clearDrops_frame s l).step (clearViews_frame _ l) (List.subset_append_left _ [.views]) (by simp)).step (State.setLane_frame _ _ _)
    (by simp) (by simp)

theorem laneRestart_frame (lane : Nat) (s : State) : SameBut [.lanes, .drops, .views] s (laneRestart lane s).1 := by
  unfold laneRestart
  split
  · exact SameBut.refl _ s
  · exact restartLane_frame s _

theorem setLaneRole_frame (lane role : Nat) (s : State) : SameBut [.lanes, .drops, .views] s (setLaneRole lane role s).1 := by
  unfold setLaneRole
  split
  · exact SameBut.ite (fun _ => SameBut.refl _ s) fun _ =>
      (State.setLane_frame s _ _).step (restartLane_frame _ _) (by simp) (List.Subset.refl _)
  · exact SameBut.refl _ s

theorem configLane_frame (s : State) (l : Fin 4) (rate : Rate) (window : Nat) : SameBut [.lanes, .drops, .views] s (s.configLane l rate window) := by
  unfold State.configLane
  exact SameBut.ite (fun _ => (State.setLane_frame s _ _).mono (by simp)) fun _ =>
    (State.setLane_frame s _ _).step (restartLane_frame _ _) (by simp) (List.Subset.refl _)

theorem configFour_frame (s : State) (ra rb rc rd : Rate) (a b c d : Nat) :
    SameBut [.lanes, .drops, .views] s ((((s.configLane 0 ra a).configLane 1 rb b).configLane 2 rc c).configLane 3 rd d) :=
  (((configLane_frame s 0 ra a).trans (configLane_frame _ 1 rb b)).trans (configLane_frame _ 2 rc c)).trans (configLane_frame _ 3 rd d)

theorem setConfigOf_frame (hold : Nat) (ra rb rc rd : Rate) (w : Vector (Nat × Nat) 4) (s : State) :
    SameBut [.holdTime, .lanes, .drops, .views] s (setConfigOf hold ra rb rc rd w s).1 := by
  have h0 : SameBut [.holdTime] s { s with holdTime := clamp 10 300 hold } := by
    constructor <;> intro h <;> first | rfl | exact absurd (by simp) h
  have h1 := h0.step (configFour_frame { s with holdTime := clamp 10 300 hold } ra rb rc rd w[0].2 w[1].2 w[2].2 w[3].2)
    (rs := [.holdTime, .lanes, .drops, .views]) (by simp) (by simp)
  unfold setConfigOf
  dsimp only
  exact h1

theorem setConfig_frame (hold : Nat) (w : Vector (Nat × Nat) 4) (s : State) :
    SameBut [.holdTime, .lanes, .drops, .views] s (setConfig hold w s).1 := by
  unfold setConfig
  split
  · exact setConfigOf_frame hold _ _ _ _ w s
  · exact SameBut.refl _ s

theorem readConfig_frame (s : State) : (readConfig s).1 = s := rfl

theorem readAlert_frame (s : State) : SameBut [.alerts, .alertsFull] s (readAlert s).1 := by
  unfold readAlert
  split
  · exact SameBut.refl _ s
  · constructor <;> intro h <;> first | rfl | exact absurd (by simp) h

/-! ### Time and the lanes -/

theorem expireHold_frame (s : State) (tab share : Nat) : SameBut [.tabs, .holds, .drops] s (s.expireHold tab share) := by
  unfold State.expireHold
  repeat' split
  all_goals first
    | exact SameBut.refl _ s
    | exact (releaseShare_frame s _ _ _ _ _).step (State.notify_frame _ _ _) (by simp) (by simp)

theorem rise_frame (s : State) (n : Nat) : SameBut [.tickets, .alerts, .alertsFull, .drops] s (s.rise n) := by
  unfold State.rise
  split
  · exact SameBut.refl _ s
  · have h := fun k d => (State.editTicket_frame s n (fun k => { k with level := k.level + 1 })).step (State.enterAlert_frame _ k d)
      (List.subset_append_left _ [.alerts, .alertsFull]) (by simp)
    exact SameBut.ite (fun _ => (h _ _).step (State.post_frame _ _ _) (by simp) (by simp)) fun _ => (h _ _).mono (by simp)

theorem endWindow_frame (s : State) (d : Nat) : SameBut [.tabs, .tickets, .views, .stations] s (s.endWindow d) := by
  unfold State.endWindow
  split
  · exact SameBut.refl _ s
  · split
    · dsimp only
      split
      · exact (State.setStation_frame s d _).step (State.retireCheck_frame _ _) (by simp) (by simp)
      · exact (State.setStation_frame s d _).mono (by simp)
    · exact SameBut.refl _ s

theorem takeOutstanding_frame (s : State) :
    SameBut [.tabs, .holds, .drops, .tickets, .alerts, .alertsFull, .views, .stations, .risesDue] s s.takeOutstanding := by
  have h0 : ∀ u : State, SameBut [.risesDue] u { u with risesDue := [] } := fun u => by
    constructor <;> intro h <;> first | rfl | exact absurd (by simp) h
  unfold State.takeOutstanding
  refine SameBut.step (ps := [.tabs, .holds, .drops, .tickets, .alerts, .alertsFull, .risesDue]) ?_
    (SameBut.foldl (fun s d => endWindow_frame s d) _ _) (by simp) (by simp)
  exact ((SameBut.foldl (fun s (p : Nat × Nat) => expireHold_frame s p.1 p.2) _ s).step
    (SameBut.foldl (fun s n => rise_frame s n) _ _) (List.subset_append_left _ [.tickets, .alerts, .alertsFull]) (by simp)).step (h0 _)
    (by simp) (by simp)

theorem beginPoll_frame (s : State) (l : Fin 4) : SameBut [.drops, .lanes] s (s.beginPoll l) :=
  (State.setDrop_frame s _ _).step (State.setLane_frame _ _ _) (by simp) (by simp)

theorem pollDone_frame (s : State) (l : Fin 4) : SameBut [.lanes] s (s.pollDone l) := State.setLane_frame s _ _

theorem miss_frame (s : State) (l : Fin 4) : SameBut [.drops, .lanes, .alerts, .alertsFull] s (s.miss l) := by
  unfold State.miss
  exact SameBut.step (SameBut.ite (ps := [.drops, .alerts, .alertsFull])
    (fun _ => (State.setDrop_frame s _ _).step (State.enterAlert_frame _ _ _) (by simp) (by simp))
    fun _ => (State.setDrop_frame s _ _).mono (by simp)) (pollDone_frame _ l) (by simp) (by simp)

theorem heard_frame (s : State) (l : Fin 4) : SameBut [.drops, .lanes] s (s.heard l) := by
  unfold State.heard
  exact SameBut.step (SameBut.ite (ps := [.drops])
    (fun _ => (State.setDrop_frame s _ _).trans (State.redraw_frame _ _)) fun _ => State.setDrop_frame s _ _) (pollDone_frame _ l)
    (by simp) (by simp)

end Sys2Proof.Machine
end

