-- ==== Sys2Proof/Laws/Payloads.lean ====
section
/-! SUPPORT. Laws/Payloads.lean: what reading a frame gives: a request's frame, a frame of a bad form, and the characters a poll
sends. -/

namespace Sys2Proof.Machine

/-- A SPLIT payload length: the fixed fields and up to twenty entries of two and a half bytes (R192). -/
theorem splitListLength_iff (m : Nat) : (5 ≤ m ∧ splitListLength (m - 5) = true) ↔
    ((List.range 21).any fun entries => m == 5 + (5 * entries + 1) / 2) = true := by
  simp only [splitListLength, decide_eq_true_eq, List.any_eq_true, List.mem_range, beq_iff_eq]
  constructor
  · rintro ⟨h1, h2, h3⟩
    rcases (by omega : (m - 5) % 5 = 0 ∨ (m - 5) % 5 = 3) with h | h
    · exact ⟨2 * ((m - 5) / 5), by omega, by omega⟩
    · exact ⟨2 * ((m - 5) / 5) + 1, by omega, by omega⟩
  · rintro ⟨e, h1, rfl⟩
    rcases (by omega : e % 2 = 0 ∨ e % 2 = 1) with h | h
    · obtain ⟨q, rfl⟩ : ∃ q, e = 2 * q := ⟨e / 2, by omega⟩
      omega
    · obtain ⟨q, rfl⟩ : ∃ q, e = 2 * q + 1 := ⟨e / 2, by omega⟩
      omega

/-- An ADD-LINE payload length: up to four modifiers of two bytes (R192). -/
theorem addLine_lengths (m : Nat) : (7 ≤ m ∧ m ≤ 15 ∧ m % 2 = 1) ↔ ([7, 9, 11, 13, 15].contains m) = true := by
  simp; omega

/-- FIND-TAB reads its form from the first byte of the payload. -/
theorem fieldAt_one_iff (p : List Byte) (h : 3 ≤ p.length) : fieldAt p 0 1 = 1 ↔ p.head? = some 1#8 := by
  match p with
  | b :: r =>
    simp [fieldAt, unbe]
    constructor
    · intro h; apply BitVec.eq_of_toNat_eq; simpa using h
    · intro h; simp [h]
  | [] => simp at h

/-- Reading a payload fails exactly where its length is not one the kind allows (R192). -/
theorem decodeRequest_isSome (src : Nat) (k : ReqKind) (p : List Byte) : (decodeRequest src k p).isSome = kindAllows k p := by
  cases k <;> simp only [decodeRequest, withLength, kindAllows]
  case addLine => rw [Bool.eq_iff_iff, ← addLine_lengths]; split <;> simp_all
  case split => rw [Bool.eq_iff_iff, ← splitListLength_iff]; split <;> simp_all
  case findTab =>
    by_cases h3 : 3 ≤ p.length
    · have := fieldAt_one_iff p h3
      by_cases hf : fieldAt p 0 1 = 1
      · have h1 := this.mp hf
        simp only [hf, h1, if_true]; by_cases h : p.length = 4 <;> simp [h]
      · have h1 : p.head? ≠ some 1#8 := fun h => hf (this.mpr h)
        simp only [hf, h1, if_false]; split <;> simp_all
    · rw [if_neg (by split <;> omega)]
      split <;> simp <;> omega
  all_goals (split <;> simp_all)

/-- A bad form reads as no request. -/
theorem BadForm.unread {kind : Nat} {p : List Byte} (h : BadForm kind p) (src : Nat) :
    ((ReqKind.ofCode kind).bind fun k => decodeRequest src k p) = none := by
  rcases hk : ReqKind.ofCode kind with _ | k
  · rfl
  · have := h.2 k hk
    rw [← decodeRequest_isSome src] at this
    simpa using this

/-- A frame of a bad form leaves BAD-FRAME for its sender and does nothing else (R183, R175). -/
theorem takeFrame_badForm {kind : Nat} {p : List Byte} (h : BadForm kind p) (src : Nat) (e : State → State) (s : State) :
    takeFrame src kind p e s = .next (s.place src ⟨kind, refuse .badFrame []⟩) := by
  simp only [takeFrame]
  rw [if_neg (fun ⟨a, b⟩ => by rcases h.1 with h | h <;> contradiction), BadForm.unread h]
  rfl

theorem be_length (w v : Nat) : (be w v).length = w := by
  induction w with
  | zero => rfl
  | succ w ih => simp [be, ih]

theorem frameBytes_length (a k : Nat) (p : List Byte) : (frameBytes a k p).length = p.length + 5 := by
  simp [frameBytes, be_length]

theorem checkOk_append (body : List Byte) : checkOk (body ++ be 2 (check body).toNat) = true := by
  simp only [checkOk, List.length_append, be_length, Nat.add_sub_cancel]
  simp

theorem checkOk_frameBytes (a k : Nat) (p : List Byte) : checkOk (frameBytes a k p) = true := checkOk_append _

/-- A request taken from a frame runs as the command it is. -/
theorem takeRequest_exec (i : Instr) (src : Nat) (h : sourceOf i = some src) (s : State) : takeRequest i s = exec i s := by
  cases i <;> simp [sourceOf] at h <;> rfl

/-- A request kind is one byte and is not EMPTY. -/
theorem ReqKind.code_bounds (k : ReqKind) : k.code < 256 ∧ k.code ≠ 0 := by cases k <;> decide

/-- An answer in good characters that spell a frame reads as its kind and payload (R171, R174). -/
theorem readAnswer_frameBytes (w bps : Nat) (k : Nat) (hk : k < 256) (p : List Byte) (hp : p.length ≤ 64) (a : LaneChar) (rest : List LaneChar)
    (hd : (a :: rest).map LaneChar.data = frameBytes 0 k p) (h1 : a.mark = true) (h2 : a.stopHigh = true) (h3 : a.delayNs ≤ w * 1000000)
    (h4 : ∀ c ∈ rest, c.mark = false ∧ c.stopHigh = true ∧ c.delayNs * bps ≤ 22 * 1000000000) :
    readAnswer w bps (a :: rest) = some (k, p) := by
  have hlen : (a :: rest).length = p.length + 5 := by
    have := congrArg List.length hd; rw [List.length_map, frameBytes_length] at this; exact this
  match rest, hlen with
  | kc :: n :: rest', hlen =>
    have hd' := hd
    simp only [frameBytes, List.map_cons, List.cons_append, List.cons.injEq] at hd'
    obtain ⟨d1, d2, d3, d4⟩ := hd'
    have hn : n.data.toNat = p.length := by rw [d3]; simp; omega
    have hkc : kc.data.toNat = k := by rw [d2]; simp; omega
    have htake : (a :: kc :: n :: rest').take (p.length + 5) = a :: kc :: n :: rest' := List.take_of_length_le (by omega)
    simp only [readAnswer, hn, htake, hkc]
    rw [if_pos]
    · congr 2
      rw [hd]; simp [frameBytes]
    · simp only [Bool.and_eq_true, decide_eq_true_eq, List.all_eq_true]
      refine ⟨⟨⟨⟨?_, hp⟩, by omega⟩, ?_⟩, ?_⟩
      · simp [opensAnswer, h1, h2, h3, d1]
      · intro c hc
        obtain ⟨c1, c2, c3⟩ := h4 c hc
        simp [followsAnswer, c1, c2, c3]
      · rw [hd]; exact checkOk_frameBytes ..
  | [kc], hlen => simp at hlen
  | [], hlen => simp at hlen

/-- A transfer that starts with a frame of the concourse controller's reads as its kind and payload (R183). -/
theorem readLinkFrame_frameBytes (kind : Nat) (hk : kind < 256) (p filler : List Byte) (r1 : p.length ≤ 64) :
    readLinkFrame (frameBytes 0 kind p ++ filler) = some (kind, p) := by
  have hc := checkOk_frameBytes 0 kind p
  have hl := frameBytes_length 0 kind p
  simp only [frameBytes, List.cons_append] at hc hl ⊢
  simp only [readLinkFrame]
  have hn : (BitVec.ofNat 8 p.length).toNat = p.length := by simp; omega
  have hk : (BitVec.ofNat 8 kind).toNat = kind := by simp; omega
  rw [hn, hk]
  rw [if_pos]
  · simp
  · refine ⟨trivial, r1, by simp [be_length], ?_⟩
    have e : ∀ q : List Byte, q.length = p.length + 5 → (q ++ filler).take (p.length + 5) = q := by
      intro q hq; rw [← hq]; simp
    have := e _ hl
    simp only [List.cons_append] at this
    rw [this]; exact hc

/-- The characters of a frame carry its bytes. -/
theorem sentFrame_data (f : List Byte) : (sentFrame f).map SentChar.data = f := by
  cases f with
  | nil => rfl
  | cons a r => simp [sentFrame, Function.comp_def]

/-- A poll sends one frame at least, and each begins with the address of the drop polled (R171, R173). -/
theorem PollItem.frames_shape (a : Nat) (item : PollItem) : item.frames a ≠ [] ∧ ∀ f ∈ item.frames a, ∃ r, f = BitVec.ofNat 8 a :: r := by
  cases item with
  | message m =>
    rcases m with b | _ | _ | _ | _
    · simp only [PollItem.frames, Msg.frames]
      constructor
      · simp only [ne_eq, List.map_eq_nil_iff, ShowBody.payloads, List.mapIdx_eq_nil_iff]
        have : b.bytes.length ≠ 0 := by
          simp [ShowBody.bytes, fieldBytes, text16, be_length]; simp [u16]
        obtain ⟨n, hn⟩ := Nat.exists_eq_succ_of_ne_zero this
        rw [hn]; simp only [cutParts]; split <;> simp
      · intro f hf
        simp only [List.mem_map] at hf
        obtain ⟨p, -, rfl⟩ := hf
        exact ⟨_, rfl⟩
    all_goals
      refine ⟨by simp [PollItem.frames, Msg.frames], fun f hf => ?_⟩
      simp only [PollItem.frames, Msg.frames, List.map_cons, List.map_nil, List.mem_singleton] at hf
      exact ⟨_, hf⟩
  | _ =>
    refine ⟨by simp [PollItem.frames], fun f hf => ?_⟩
    simp only [PollItem.frames, List.mem_singleton] at hf
    exact ⟨_, hf⟩

end Sys2Proof.Machine
end

