-- ==== Sys2Proof/Laws/PerInstr.lean ====
section
/-! SUPPORT. Laws/PerInstr.lean: statements made for every command, one lemma a constructor. -/

namespace Sys2Proof.Laws

/-- The payload of a command a sender can spell fits a frame: 64 bytes at the most (R191). -/
def PayloadFits.Statement (i : Instr) : Prop :=
  WellFormed i = true → ∀ k p, encodeRequest i = some (k, p) → p.length ≤ 64

/-- A number's bytes are as many as its width. -/
@[simp] theorem be_length (w v : Nat) : (be w v).length = w := by
  induction w with
  | zero => rfl
  | succ w ih => simp [be, ih]

/-- Two bytes to each modifier entry. -/
theorem encodeMods_length (ms : List Nat) : (encodeMods ms).length = 2 * ms.length := by
  induction ms with
  | nil => rfl
  | cons m rest ih => simp only [encodeMods, List.flatMap_cons] at ih ⊢; simp [ih]; omega

/-- Five bytes to each two SPLIT entries, three to a last odd one. -/
theorem encodeEntries_length : ∀ es : List SplitEntry, (encodeEntries es).length = (5 * es.length + 1) / 2
  | [] => rfl
  | [_] => by simp [encodeEntries]
  | _ :: _ :: rest => by simp [encodeEntries, encodeEntries_length rest]; omega

theorem PayloadFits.resetHold (cause : ResetCause) : PayloadFits.Statement (.resetHold cause) := by
  intro _ k p h
  cases h

theorem PayloadFits.resetRelease (cause : ResetCause) (cfgHigh : Bool) : PayloadFits.Statement (.resetRelease cause cfgHigh) := by
  intro _ k p h
  cases h

theorem PayloadFits.settleEnd : PayloadFits.Statement .settleEnd := by
  intro _ k p h
  cases h

theorem PayloadFits.secondsTick : PayloadFits.Statement .secondsTick := by
  intro _ k p h
  cases h

theorem PayloadFits.holdExpiry (tab share : Nat) : PayloadFits.Statement (.holdExpiry tab share) := by
  intro _ k p h
  cases h

theorem PayloadFits.recallWindowExpiry (station : Nat) : PayloadFits.Statement (.recallWindowExpiry station) := by
  intro _ k p h
  cases h

theorem PayloadFits.overdueRise (ticket : Nat) : PayloadFits.Statement (.overdueRise ticket) := by
  intro _ k p h
  cases h

theorem PayloadFits.poll (lane : Fin 4) : PayloadFits.Statement (.poll lane) := by
  intro _ k p h
  cases h

theorem PayloadFits.answerMiss (lane : Fin 4) : PayloadFits.Statement (.answerMiss lane) := by
  intro _ k p h
  cases h

theorem PayloadFits.goodAnswer (lane : Fin 4) (chars : List LaneChar) : PayloadFits.Statement (.goodAnswer lane chars) := by
  intro _ k p h
  cases h

theorem PayloadFits.chipSelectFall (highMicros : Nat) : PayloadFits.Statement (.chipSelectFall highMicros) := by
  intro _ k p h
  cases h

theorem PayloadFits.chipSelectRise (bytes : List Byte) : PayloadFits.Statement (.chipSelectRise bytes) := by
  intro _ k p h
  cases h

theorem PayloadFits.openTab (src kind : Nat) (label : List Byte) : PayloadFits.Statement (.openTab src kind label) := by
  intro w k p h
  cases h
  simp only [WellFormed, Bool.and_eq_true, decide_eq_true_eq] at w
  simp
  omega

theorem PayloadFits.addLine (src tab rev item qty : Nat) (mods : List Nat) :
    PayloadFits.Statement (.addLine src tab rev item qty mods) := by
  intro w k p h
  cases h
  simp only [WellFormed, Bool.and_eq_true, decide_eq_true_eq] at w
  simp [encodeMods_length]
  omega

theorem PayloadFits.voidLine (src tab rev index : Nat) : PayloadFits.Statement (.voidLine src tab rev index) := by
  intro _ k p h
  cases h
  simp

theorem PayloadFits.setLabel (src tab rev : Nat) (label : List Byte) : PayloadFits.Statement (.setLabel src tab rev label) := by
  intro w k p h
  cases h
  simp only [WellFormed, Bool.and_eq_true, decide_eq_true_eq] at w
  simp
  omega

theorem PayloadFits.setService (src tab rev rate : Nat) : PayloadFits.Statement (.setService src tab rev rate) := by
  intro _ k p h
  cases h
  simp

theorem PayloadFits.closeEmpty (src tab rev : Nat) : PayloadFits.Statement (.closeEmpty src tab rev) := by
  intro _ k p h
  cases h
  simp

theorem PayloadFits.mergeTabs (src tabA revA tabB revB : Nat) : PayloadFits.Statement (.mergeTabs src tabA revA tabB revB) := by
  intro _ k p h
  cases h
  simp

theorem PayloadFits.send (src tab : Nat) (hold rush : Bool) : PayloadFits.Statement (.send src tab hold rush) := by
  intro _ k p h
  cases h
  simp

theorem PayloadFits.fire (src tab : Nat) : PayloadFits.Statement (.fire src tab) := by
  intro _ k p h
  cases h
  simp

theorem PayloadFits.split (src tab rev n : Nat) (entries : List SplitEntry) :
    PayloadFits.Statement (.split src tab rev n entries) := by
  intro w k p h
  cases h
  simp only [WellFormed, Bool.and_eq_true, decide_eq_true_eq] at w
  simp [encodeEntries_length]
  omega

theorem PayloadFits.assign (src tab rev index : Nat) (set : BitVec 12) :
    PayloadFits.Statement (.assign src tab rev index set) := by
  intro _ k p h
  cases h
  simp

theorem PayloadFits.unsplit (src tab rev : Nat) : PayloadFits.Statement (.unsplit src tab rev) := by
  intro _ k p h
  cases h
  simp

theorem PayloadFits.tenderBegin (src tab share : Nat) : PayloadFits.Statement (.tenderBegin src tab share) := by
  intro _ k p h
  cases h
  simp

theorem PayloadFits.tenderCommit (src tab share kind tendered tip : Nat) :
    PayloadFits.Statement (.tenderCommit src tab share kind tendered tip) := by
  intro _ k p h
  cases h
  simp

theorem PayloadFits.tenderCancel (src tab share : Nat) : PayloadFits.Statement (.tenderCancel src tab share) := by
  intro _ k p h
  cases h
  simp

theorem PayloadFits.quote (src item : Nat) : PayloadFits.Statement (.quote src item) := by
  intro _ k p h
  cases h
  simp

theorem PayloadFits.findTab (src form startAfter : Nat) (key : List Byte) :
    PayloadFits.Statement (.findTab src form startAfter key) := by
  intro w k p h
  cases h
  simp only [WellFormed, Bool.and_eq_true, decide_eq_true_eq] at w
  simp only [List.length_append, be_length]
  obtain ⟨_, w⟩ := w
  split at w <;> omega

theorem PayloadFits.readTab (src tab page : Nat) : PayloadFits.Statement (.readTab src tab page) := by
  intro _ k p h
  cases h
  simp

theorem PayloadFits.bump (src ticket : Nat) : PayloadFits.Statement (.bump src ticket) := by
  intro _ k p h
  cases h
  simp

theorem PayloadFits.recall (src : Nat) : PayloadFits.Statement (.recall src) := by
  intro _ k p h
  cases h
  simp

theorem PayloadFits.markSoldOut (src item : Nat) : PayloadFits.Statement (.markSoldOut src item) := by
  intro _ k p h
  cases h
  simp

theorem PayloadFits.redrawMe (src : Nat) : PayloadFits.Statement (.redrawMe src) := by
  intro _ k p h
  cases h
  simp

theorem PayloadFits.loadItem (src item kind : Nat) (name : List Byte) (price cls route prep restricted low : Nat) :
    PayloadFits.Statement (.loadItem src item kind name price cls route prep restricted low) := by
  intro w k p h
  cases h
  simp only [WellFormed, Bool.and_eq_true, decide_eq_true_eq] at w
  simp
  omega

theorem PayloadFits.setPrice (src item price : Nat) : PayloadFits.Statement (.setPrice src item price) := by
  intro _ k p h
  cases h
  simp

theorem PayloadFits.setStock (src item : Nat) (stock : Option Nat) : PayloadFits.Statement (.setStock src item stock) := by
  intro _ k p h
  cases h
  simp

theorem PayloadFits.loadTax (src cls rate : Nat) : PayloadFits.Statement (.loadTax src cls rate) := by
  intro _ k p h
  cases h
  simp

theorem PayloadFits.loadStation (src drop depth limit crew fallback prep interval : Nat) :
    PayloadFits.Statement (.loadStation src drop depth limit crew fallback prep interval) := by
  intro _ k p h
  cases h
  simp

theorem PayloadFits.setConfig (src hold : Nat) (settings : Vector (Nat × Nat) 4) :
    PayloadFits.Statement (.setConfig src hold settings) := by
  intro _ k p h
  cases h
  have e : settings.toList.length = 4 := by simp
  generalize settings.toList = xs at e ⊢
  match xs, e with
  | [_, _, _, _], _ => simp

theorem PayloadFits.setLaneRole (src lane role : Nat) : PayloadFits.Statement (.setLaneRole src lane role) := by
  intro _ k p h
  cases h
  simp

theorem PayloadFits.laneRestart (src lane : Nat) : PayloadFits.Statement (.laneRestart src lane) := by
  intro _ k p h
  cases h
  simp

theorem PayloadFits.setPeriod (src period : Nat) : PayloadFits.Statement (.setPeriod src period) := by
  intro _ k p h
  cases h
  simp

theorem PayloadFits.endDay (src : Nat) : PayloadFits.Statement (.endDay src) := by
  intro _ k p h
  cases h
  simp

theorem PayloadFits.readAlert (src : Nat) : PayloadFits.Statement (.readAlert src) := by
  intro _ k p h
  cases h
  simp

theorem PayloadFits.readDrawer (src drawer : Nat) : PayloadFits.Statement (.readDrawer src drawer) := by
  intro _ k p h
  cases h
  simp

theorem PayloadFits.closeDrawer (src drawer : Nat) : PayloadFits.Statement (.closeDrawer src drawer) := by
  intro _ k p h
  cases h
  simp

theorem PayloadFits.writeOff (src tab : Nat) : PayloadFits.Statement (.writeOff src tab) := by
  intro _ k p h
  cases h
  simp

theorem PayloadFits.killTicket (src ticket : Nat) : PayloadFits.Statement (.killTicket src ticket) := by
  intro _ k p h
  cases h
  simp

theorem PayloadFits.readConfig (src : Nat) : PayloadFits.Statement (.readConfig src) := by
  intro _ k p h
  cases h
  simp

theorem PayloadFits.pollEnd (lane : Fin 4) : PayloadFits.Statement (.pollEnd lane) := by
  intro _ k p h
  cases h

end Sys2Proof.Laws
end

