-- ==== Sys2Proof/Laws/Tickets.lean ====
section
/-! SUPPORT. Laws/Tickets.lean: what firing leaves of a ticket, how a send's lines fall into tickets, and what a change of the
router keeps of the ticket table. -/

namespace Sys2Proof.Machine

/-! ### The ticket table, number for number -/

/-- The same number, tab and count of lines; an age that has not grown past 65,535. -/
def LikeEntry (a b : Nat × Ticket) : Prop :=
  b.1 = a.1 ∧ b.2.tab = a.2.tab ∧ b.2.refs.length = a.2.refs.length ∧ b.2.age ≤ max 65535 a.2.age

theorem LikeEntry.refl (a : Nat × Ticket) : LikeEntry a a := ⟨rfl, rfl, rfl, Nat.le_max_right _ _⟩

theorem LikeEntry.trans {a b c : Nat × Ticket} (h : LikeEntry a b) (g : LikeEntry b c) : LikeEntry a c := by
  obtain ⟨h1, h2, h3, h4⟩ := h
  obtain ⟨g1, g2, g3, g4⟩ := g
  exact ⟨g1.trans h1, g2.trans h2, g3.trans h3, by omega⟩

/-- The two tables hold like tickets under the same numbers in the same order. -/
def TicketsLike (s t : State) : Prop := List.Forall₂ LikeEntry s.tickets t.tickets

theorem TicketsLike.of {s t : State} (h : t.tickets = s.tickets) : TicketsLike s t := by
  unfold TicketsLike
  rw [h]
  exact List.forall₂_same.mpr fun a _ => LikeEntry.refl a

theorem TicketsLike.refl (s : State) : TicketsLike s s := .of rfl

theorem TicketsLike.trans {s t u : State} (a : TicketsLike s t) (b : TicketsLike t u) : TicketsLike s u := by
  have comp : ∀ l m n : List (Nat × Ticket), List.Forall₂ LikeEntry l m → List.Forall₂ LikeEntry m n → List.Forall₂ LikeEntry l n := by
    intro l m n h
    induction h generalizing n with
    | nil => exact id
    | cons h1 _ ih =>
      intro g
      cases g with
      | cons g1 g2 => exact .cons (h1.trans g1) (ih _ g2)
  exact comp _ _ _ a b

theorem TicketsLike.frame {ps : List Part} {s t : State} (f : SameBut ps s t) (h : Part.tickets ∉ ps) : TicketsLike s t :=
  .of (f.tickets h)

theorem TicketsLike.foldl {β : Type} {f : State → β → State} (h : ∀ s x, TicketsLike s (f s x)) (l : List β) (s : State) :
    TicketsLike s (l.foldl f s) := by
  induction l generalizing s with
  | nil => exact .refl s
  | cons x r ih => exact (h s x).trans (ih _)

theorem TicketsLike.edit (s : State) (n : Nat) (f : Ticket → Ticket) (h : ∀ k, LikeEntry (n, k) (n, f k)) :
    TicketsLike s (s.editTicket n f) := by
  simp only [TicketsLike, State.editTicket, Table.edit]
  generalize s.tickets = l
  induction l with
  | nil => exact .nil
  | cons e r ih =>
    refine .cons ?_ ih
    obtain ⟨m, k⟩ := e
    by_cases hm : m = n
    · subst hm
      simpa using h k
    · simpa [hm] using LikeEntry.refl _

theorem TicketsLike.keys {s t : State} (h : TicketsLike s t) : t.tickets.map Prod.fst = s.tickets.map Prod.fst := by
  unfold TicketsLike at h
  generalize s.tickets = l at h
  generalize t.tickets = m at h
  induction h with
  | nil => rfl
  | cons h1 _ ih => simp [h1.1, ih]

theorem TicketsLike.length {s t : State} (h : TicketsLike s t) : t.tickets.length = s.tickets.length :=
  (List.Forall₂.length_eq h).symm

/-- A ticket of the later table is like one of the earlier under its number. -/
theorem TicketsLike.mem {s t : State} (h : TicketsLike s t) {b : Nat × Ticket} (hb : b ∈ t.tickets) :
    ∃ a ∈ s.tickets, LikeEntry a b := by
  unfold TicketsLike at h
  generalize s.tickets = l at h
  generalize t.tickets = m at h hb
  induction h with
  | nil => simp at hb
  | cons h1 _ ih =>
    rcases List.mem_cons.mp hb with rfl | hb
    · exact ⟨_, List.mem_cons_self, h1⟩
    · obtain ⟨a, ha, hl⟩ := ih hb
      exact ⟨a, List.mem_cons_of_mem _ ha, hl⟩

theorem TicketsLike.ticketsOk {s t : State} (h : TicketsLike s t) (hc : t.ticketCounter = s.ticketCounter) (ho : s.TicketsOk) :
    t.TicketsOk := by
  obtain ⟨h1, h2, h3, h4⟩ := ho
  refine ⟨by rw [h.keys]; exact h1, by rw [h.length]; exact h2, by rw [hc]; exact h3, ?_⟩
  intro b hb
  obtain ⟨a, ha, e1, -, e3, e4⟩ := h.mem hb
  obtain ⟨g1, g2, g3⟩ := h4 a ha
  exact ⟨by rw [e1]; exact g1, by rw [e3]; exact g2, by omega⟩

theorem takeOut_like (s : State) (n d : Nat) : TicketsLike s (s.takeOut n d) :=
  (TicketsLike.frame (State.setStation_frame s d _) (by simp)).trans (TicketsLike.edit _ _ _ fun k => LikeEntry.refl _)

theorem admitOne_like (s : State) (d : Nat) : TicketsLike s (s.admitOne d) := by
  unfold State.admitOne
  split
  · exact .refl s
  · extract_lets st s1
    have h1 : TicketsLike s s1 :=
      (TicketsLike.frame (State.setStation_frame s d _) (by simp)).trans (TicketsLike.edit _ _ _ fun k => LikeEntry.refl _)
    split
    · exact h1
    · exact h1.trans (TicketsLike.frame (State.setStation_frame _ d _) (by simp))

theorem admitMany_like (d n : Nat) (s : State) : TicketsLike s (State.admitMany d n s) := by
  induction n generalizing s with
  | zero => exact .refl s
  | succ n ih =>
    unfold State.admitMany
    split
    · exact (admitOne_like s d).trans (ih _)
    · exact .refl s

theorem fillLive_like (s : State) (d : Nat) : TicketsLike s (s.fillLive d) := admitMany_like d _ s

theorem fireOne_like (s : State) (n : Nat) : TicketsLike s (s.fireOne n) := by
  unfold State.fireOne
  split
  · exact .refl s
  · rename_i k hk
    extract_lets src s1 st waiting
    have h1 : TicketsLike s s1 := TicketsLike.trans (t := src) (TicketsLike.edit s n (fun k => k.firedAt s.clock s.fireCount) fun k => LikeEntry.refl _) (TicketsLike.of rfl)
    exact (h1.trans (TicketsLike.frame (State.setStation_frame _ _ _) (by simp))).trans (fillLive_like _ _)

theorem syncScreen_like (s : State) (d : Nat) (before : List Nat) (b : Option Nat) : TicketsLike s (s.syncScreen d before b) := by
  unfold State.syncScreen
  extract_lets after left came s1
  have h1 : TicketsLike s s1 := TicketsLike.foldl (f := State.markShown) (fun u n => TicketsLike.edit u n _ fun k => LikeEntry.refl _) _ s
  exact h1.trans (TicketsLike.frame (State.post_frame _ _ _) (by simp))

theorem fireAll_like (s : State) (ns : List Nat) : TicketsLike s (s.fireAll ns) :=
  (TicketsLike.foldl (fun u n => fireOne_like u n) ns s).trans (TicketsLike.foldl (fun u d => syncScreen_like u d _ _) _ _)

theorem killTicket_like (s : State) (n : Nat) : TicketsLike s (s.killTicket n) := by
  unfold State.killTicket
  split
  · exact .refl s
  · rename_i k _
    extract_lets before s1 s2
    have h1 : TicketsLike s s1 := (takeOut_like s n k.station).trans (TicketsLike.edit _ _ _ fun k => LikeEntry.refl _)
    have h2 : TicketsLike s s2 := by
      unfold s2
      split
      · exact h1.trans (fillLive_like _ _)
      · exact h1
    exact (h2.trans (TicketsLike.frame (State.clearRefs_frame _ _) (by simp))).trans (syncScreen_like _ _ _ _)

theorem sendBack_like (d : Nat) (s : State) (n : Nat) : TicketsLike s (State.sendBack d s n) :=
  (TicketsLike.frame (State.setStation_frame s d _) (by simp)).trans (TicketsLike.edit _ _ _ fun k => LikeEntry.refl _)

/-! ### Firing -/

theorem fireOne_frame' (s : State) (n : Nat) : (s.fireOne n).clock = s.clock := (State.fireOne_frame s n).clock (by simp)

theorem fireOne_self (s : State) (n : Nat) (k : Ticket) (hk : s.ticket n = some k) :
    ∃ k', (s.fireOne n).ticket n = some k' ∧ k'.fired = some s.clock ∧ (k'.state = .waiting ∨ k'.state = .live) ∧ k'.station = k.station ∧ k'.refs = k.refs ∧ k'.tab = k.tab ∧ k'.original = k.original ∧ k'.rush = k.rush := by
  simp only [State.fireOne, hk]
  set s1 : State := { s.editTicket n (fun k => k.firedAt s.clock s.fireCount) with fireCount := s.fireCount + 1 } with hs1
  have h1 : ∀ st, (s1.setStation k.station st).ticket n = some (k.firedAt s.clock s.fireCount) := by
    intro st
    rw [State.ticket_setStation]
    rw [State.ticket_of (s := s.editTicket n (fun k => k.firedAt s.clock s.fireCount)) (t := s1) rfl]
    simp [hk]
  obtain ⟨-, j, live, -, -, -, -, -, -, ht⟩ := State.fillLive_spec (s1.setStation k.station { s1.station k.station with waiting := s1.ordered (s1.station k.station).waiting n (k.firedAt s.clock s.fireCount) }) k.station
  rw [ht, h1]
  refine ⟨_, rfl, ?_⟩
  split
  · exact ⟨rfl, .inr rfl, rfl, rfl, rfl, rfl, rfl⟩
  · exact ⟨rfl, .inl rfl, rfl, rfl, rfl, rfl, rfl⟩

theorem fireOne_other (s : State) (n m : Nat) (hne : m ≠ n) (k : Ticket) (hk : s.ticket m = some k) :
    ∃ k', (s.fireOne n).ticket m = some k' ∧ (k' = k ∨ k' = k.admitted) := by
  simp only [State.fireOne]
  split
  · exact ⟨k, hk, .inl rfl⟩
  · rename_i kn hkn
    set s1 : State := { s.editTicket n (fun k => k.firedAt s.clock s.fireCount) with fireCount := s.fireCount + 1 } with hs1
    have h1 : ∀ st, (s1.setStation kn.station st).ticket m = some k := by
      intro st
      rw [State.ticket_setStation]
      rw [State.ticket_of (s := s.editTicket n (fun k => k.firedAt s.clock s.fireCount)) (t := s1) rfl]
      simp [hk, hne]
    obtain ⟨-, j, live, -, -, -, -, -, -, ht⟩ := State.fillLive_spec (s1.setStation kn.station { s1.station kn.station with waiting := s1.ordered (s1.station kn.station).waiting n (kn.firedAt s.clock s.fireCount) }) kn.station
    rw [ht, h1]
    refine ⟨_, rfl, ?_⟩
    split
    · exact .inr rfl
    · exact .inl rfl

/-- fired-ness kept -/
def FiredAs (c : Nat) (k k' : Ticket) : Prop :=
  k'.fired = some c ∧ (k'.state = .waiting ∨ k'.state = .live) ∧ k'.station = k.station ∧ k'.refs = k.refs ∧ k'.tab = k.tab ∧ k'.original = k.original ∧ k'.rush = k.rush

theorem FiredAs.admitted {c k k'} (h : FiredAs c k k') : FiredAs c k k'.admitted := by
  obtain ⟨a, b, d, e, f, g, i⟩ := h
  exact ⟨a, .inr rfl, d, e, f, g, i⟩
theorem FiredAs.shown {c k k' x} (h : FiredAs c k k') : FiredAs c k (k'.shownAt x) := by
  obtain ⟨a, b, d, e, f, g, i⟩ := h
  exact ⟨a, b, d, e, f, g, i⟩

theorem fireFold (ns : List Nat) (s : State) (n : Nat) (k : Ticket) :
    (∀ k', s.ticket n = some k' → FiredAs s.clock k k' → ∃ k'', (ns.foldl State.fireOne s).ticket n = some k'' ∧ FiredAs s.clock k k'') ∧
    (∀ k', s.ticket n = some k' → (k' = k ∨ k' = k.admitted) → n ∈ ns → ∃ k'', (ns.foldl State.fireOne s).ticket n = some k'' ∧ FiredAs s.clock k k'') := by
  induction ns generalizing s with
  | nil => exact ⟨fun k' h1 h2 => ⟨k', h1, h2⟩, fun _ _ _ h => by cases h⟩
  | cons m r ih =>
    obtain ⟨ih1, ih2⟩ := ih (s.fireOne m)
    rw [fireOne_frame'] at ih1 ih2
    have step : ∀ k', s.ticket n = some k' → FiredAs s.clock k k' → ∃ k'', (s.fireOne m).ticket n = some k'' ∧ FiredAs s.clock k k'' := by
      intro k' h1 h2
      by_cases hm : n = m
      · subst hm
        obtain ⟨k'', a, b, c, d, e, f, g, i⟩ := fireOne_self s n k' h1
        obtain ⟨_, _, d', e', f', g', i'⟩ := h2
        exact ⟨k'', a, b, c, d.trans d', e.trans e', f.trans f', g.trans g', i.trans i'⟩
      · obtain ⟨k'', a, b⟩ := fireOne_other s m n hm k' h1
        rcases b with rfl | rfl
        · exact ⟨_, a, h2⟩
        · exact ⟨_, a, h2.admitted⟩
    refine ⟨fun k' h1 h2 => ?_, fun k' h1 h2 h3 => ?_⟩
    · obtain ⟨k'', a, b⟩ := step k' h1 h2
      exact ih1 k'' a b
    · by_cases hm : n = m
      · subst hm
        obtain ⟨k'', a, b, c, d, e, f, g, i⟩ := fireOne_self s n k' h1
        refine ih1 k'' a ?_
        rcases h2 with rfl | rfl
        · exact ⟨b, c, d, e, f, g, i⟩
        · exact ⟨b, c, d, e, f, g, i⟩
      · obtain ⟨k'', a, b⟩ := fireOne_other s m n hm k' h1
        refine ih2 k'' a ?_ (by simpa [hm] using h3)
        rcases b with rfl | rfl <;> rcases h2 with rfl | rfl <;> simp

theorem syncFold_ticket (ds : List Nat) (b : Nat → List Nat) (s : State) (n : Nat) (k : Ticket) (hk : s.ticket n = some k) :
    ∃ k', (ds.foldl (fun st d => st.syncScreen d (b d) none) s).ticket n = some k' ∧ (k' = k ∨ ∃ c, k' = k.shownAt c) := by
  induction ds generalizing s k with
  | nil => exact ⟨k, hk, .inl rfl⟩
  | cons d r ih =>
    rw [List.foldl_cons]
    have : ∃ k', (s.syncScreen d (b d) none).ticket n = some k' ∧ (k' = k ∨ ∃ c, k' = k.shownAt c) := by
      rw [State.syncScreen_ticket, hk]
      refine ⟨_, rfl, ?_⟩
      split
      · exact .inr ⟨_, rfl⟩
      · exact .inl rfl
    obtain ⟨k', h1, h2⟩ := this
    obtain ⟨k'', h3, h4⟩ := ih _ k' h1
    refine ⟨k'', h3, ?_⟩
    rcases h2 with rfl | ⟨c, rfl⟩
    · exact h4
    · rcases h4 with rfl | ⟨c', rfl⟩
      · exact .inr ⟨c, rfl⟩
      · exact .inr ⟨c, by simp [Ticket.shownAt]⟩

theorem fireAll_self (s : State) (ns : List Nat) (n : Nat) (k : Ticket) (hk : s.ticket n = some k) (hn : n ∈ ns) :
    ∃ k', (s.fireAll ns).ticket n = some k' ∧ FiredAs s.clock k k' := by
  obtain ⟨k1, h1, h2⟩ := (fireFold ns s n k).2 k hk (.inl rfl) hn
  obtain ⟨k2, h3, h4⟩ := syncFold_ticket (s.stationsOf ns) (fun d => s.screen d) (ns.foldl State.fireOne s) n k1 h1
  refine ⟨k2, h3, ?_⟩
  rcases h4 with rfl | ⟨c, rfl⟩
  · exact h2
  · exact h2.shown


/-! ### The tickets of a send -/

theorem mem_runsFrom (all : List Routed) : ∀ (before rest : List Routed) (x : Run), x ∈ runsFrom all before rest ↔
    ∃ pre r post, rest = pre ++ r :: post ∧ r.dest = .to x.station x.original ∧
      (groupOf (before ++ pre) r.dest).length % 16 = 0 ∧
      x.lines = ((groupOf all r.dest).drop (groupOf (before ++ pre) r.dest).length).take 16 := by
  intro before rest
  induction rest generalizing before with
  | nil => intro x; simp [runsFrom]
  | cons r rest ih =>
    intro x
    have tail : x ∈ runsFrom all (before ++ [r]) rest ↔ ∃ pre r' post, rest = pre ++ r' :: post ∧ r'.dest = .to x.station x.original ∧
      (groupOf (before ++ (r :: pre)) r'.dest).length % 16 = 0 ∧
      x.lines = ((groupOf all r'.dest).drop (groupOf (before ++ (r :: pre)) r'.dest).length).take 16 := by
      rw [ih]; simp only [List.append_assoc, List.singleton_append]
    have split : (∃ pre r' post, r :: rest = pre ++ r' :: post ∧ r'.dest = .to x.station x.original ∧
      (groupOf (before ++ pre) r'.dest).length % 16 = 0 ∧
      x.lines = ((groupOf all r'.dest).drop (groupOf (before ++ pre) r'.dest).length).take 16) ↔
      (r.dest = .to x.station x.original ∧ (groupOf before r.dest).length % 16 = 0 ∧
        x.lines = ((groupOf all r.dest).drop (groupOf before r.dest).length).take 16) ∨ x ∈ runsFrom all (before ++ [r]) rest := by
      rw [tail]
      constructor
      · rintro ⟨pre, r', post, h1, h2, h3, h4⟩
        cases pre with
        | nil =>
          simp at h1; obtain ⟨rfl, rfl⟩ := h1
          left; simp at h3 h4; exact ⟨h2, h3, h4⟩
        | cons y pre =>
          simp at h1; obtain ⟨rfl, rfl⟩ := h1
          right; exact ⟨pre, r', post, rfl, h2, h3, h4⟩
      · rintro (⟨h2, h3, h4⟩ | ⟨pre, r', post, rfl, h2, h3, h4⟩)
        · exact ⟨[], r, rest, rfl, h2, by simpa using h3, by simpa using h4⟩
        · exact ⟨r :: pre, r', post, rfl, h2, h3, h4⟩
    rw [split]
    simp only [runsFrom]
    rcases hd : r.dest with _ | ⟨d, o⟩
    · simp
    · simp only
      by_cases hc : (groupOf before (.to d o)).length % 16 = 0
      · rw [if_pos hc, List.mem_cons]
        refine or_congr ?_ Iff.rfl
        constructor
        · rintro rfl; exact ⟨rfl, hc, rfl⟩
        · rintro ⟨h1, _, h3⟩
          cases x; simp at h1; obtain ⟨rfl, rfl⟩ := h1; simp at h3; rw [h3]
      · rw [if_neg hc]
        constructor
        · exact .inr
        · rintro (⟨_, h, _⟩ | h)
          · exact absurd h hc
          · exact h

theorem runsFrom_length (all : List Routed) : ∀ (before rest : List Routed), (runsFrom all before rest).length ≤ rest.length := by
  intro before rest
  induction rest generalizing before with
  | nil => simp [runsFrom]
  | cons r rest ih =>
    have := ih (before ++ [r])
    simp only [runsFrom, List.length_cons]
    split
    · omega
    · split
      · simp; omega
      · omega

theorem groupOf_append (a b : List Routed) (d : Dest) : groupOf (a ++ b) d = groupOf a d ++ groupOf b d := by
  simp [groupOf]

/-- a gathered line stands in a run -/
theorem run_of_line (all : List Routed) (d : Nat) (o : Option Nat) (l : Line) (h : l ∈ groupOf all (.to d o)) :
    ∃ x ∈ runsFrom all [] all, x.station = d ∧ x.original = o ∧ l ∈ x.lines := by
  set g := groupOf all (.to d o) with hg
  obtain ⟨q, hq, rfl⟩ := List.getElem_of_mem h
  set p := 16 * (q / 16) with hp
  have hpg : p < g.length := by omega
  -- split at group index
  have spl : ∀ (all : List Routed) (i : Nat), i < (groupOf all (.to d o)).length → ∃ pre r post, all = pre ++ r :: post ∧ r.dest = .to d o ∧ (groupOf pre (.to d o)).length = i := by
    intro all
    induction all with
    | nil => intro i hi; simp [groupOf] at hi
    | cons y r ih =>
      intro i hi
      by_cases hy : y.dest = .to d o
      · cases i with
        | zero => exact ⟨[], y, r, rfl, hy, rfl⟩
        | succ i =>
          have : (groupOf (y :: r) (.to d o)).length = (groupOf r (.to d o)).length + 1 := by simp [groupOf, hy]
          obtain ⟨pre, r', post, h1, h2, h3⟩ := ih i (by omega)
          exact ⟨y :: pre, r', post, by rw [h1]; rfl, h2, by simp [groupOf, hy] at h3 ⊢; exact h3⟩
      · have : groupOf (y :: r) (.to d o) = groupOf r (.to d o) := by simp [groupOf, hy]
        rw [this] at hi
        obtain ⟨pre, r', post, h1, h2, h3⟩ := ih i hi
        exact ⟨y :: pre, r', post, by rw [h1]; rfl, h2, by simp [groupOf, hy] at h3 ⊢; exact h3⟩
  obtain ⟨pre, r, post, h1, h2, h3⟩ := spl all p hpg
  refine ⟨⟨d, o, (g.drop p).take 16⟩, ?_, rfl, rfl, ?_⟩
  · rw [mem_runsFrom]
    refine ⟨pre, r, post, h1, h2, ?_, ?_⟩
    · rw [h2]; simp [h3]; omega
    · rw [h2]; simp [h3, hg]
  · have : q - p < ((g.drop p).take 16).length := by simp; omega
    have e : g[q] = ((g.drop p).take 16)[q - p] := by simp; congr 1; omega
    rw [e]; exact List.getElem_mem _

theorem run_lines (all : List Routed) (x : Run) (hx : x ∈ runsFrom all [] all) :
    x.lines.length ≤ 16 ∧ ∀ l ∈ x.lines, l ∈ groupOf all (.to x.station x.original) := by
  rw [mem_runsFrom] at hx
  obtain ⟨pre, r, post, h1, h2, h3, h4⟩ := hx
  rw [h4]
  refine ⟨by simp, fun l hl => ?_⟩
  rw [← h2]; exact List.mem_of_mem_drop (List.mem_of_mem_take hl)

theorem runs_disjoint (all : List Routed) (hnd : (all.map fun r => r.line.index).Nodup) :
    ∀ (before rest : List Routed), before ++ rest = all →
    (runsFrom all before rest).Pairwise (fun a b => ∀ l ∈ a.lines, ∀ m ∈ b.lines, l.index ≠ m.index) := by
  intro before rest
  induction rest generalizing before with
  | nil => intro _; simp [runsFrom]
  | cons r rest ih =>
    intro hall
    have tl := ih (before ++ [r]) (by simp [hall])
    simp only [runsFrom]
    rcases hd : r.dest with _ | ⟨d, o⟩
    · exact tl
    · simp only
      by_cases hc : (groupOf before (.to d o)).length % Config.ticketLines = 0
      · rw [if_pos hc, List.pairwise_cons]
        refine ⟨?_, tl⟩
        intro y hy l hl m hm he
        rw [mem_runsFrom] at hy
        obtain ⟨pre, r', post, h1, h2, h3, h4⟩ := hy
        simp only at hl
        rw [h4] at hm
        by_cases hdd : r'.dest = .to d o
        · -- same group
          rw [hdd] at hm h3
          have hlen : (groupOf (before ++ [r] ++ pre) (.to d o)).length ≥ (groupOf before (.to d o)).length + 1 := by
            rw [groupOf_append, groupOf_append]
            simp [groupOf, hd]
          have hge : (groupOf before (.to d o)).length + 16 ≤ (groupOf (before ++ [r] ++ pre) (.to d o)).length := by
            have hc' : (groupOf before (.to d o)).length % 16 = 0 := hc
            omega
          have hgn : ((groupOf all (.to d o)).map Line.index).Nodup := by
            simp only [groupOf, List.map_map]
            refine List.Nodup.sublist (List.filter_sublist.map _) ?_
            exact hnd
          set g := groupOf all (.to d o) with hg
          set p := (groupOf before (.to d o)).length with hp
          set p' := (groupOf (before ++ [r] ++ pre) (.to d o)).length with hp'
          obtain ⟨i, hi, rfl⟩ := List.getElem_of_mem hl
          obtain ⟨j, hj, rfl⟩ := List.getElem_of_mem hm
          have h16 : Config.ticketLines = 16 := rfl
          rw [h16] at hi
          simp at hi hj
          simp at he
          have := (List.Nodup.getElem_inj_iff hgn (i := p + i) (j := p' + j) (hi := by simp; omega) (hj := by simp; omega)).mp (by simpa using he)
          omega
        · have hl' : l ∈ groupOf all (.to d o) := List.mem_of_mem_drop (List.mem_of_mem_take hl)
          have hm' : m ∈ groupOf all r'.dest := List.mem_of_mem_drop (List.mem_of_mem_take hm)
          simp only [groupOf, List.mem_map, List.mem_filter] at hl' hm'
          obtain ⟨a, ⟨ha1, ha2⟩, rfl⟩ := hl'
          obtain ⟨b, ⟨hb1, hb2⟩, rfl⟩ := hm'
          have : a = b := List.inj_on_of_nodup_map hnd ha1 hb1 he
          subst this
          simp at ha2 hb2
          exact hdd (hb2.symm.trans ha2)
      · rw [if_neg hc]; exact tl

end Sys2Proof.Machine
end

