-- ==== Sys2Proof/Laws/Settling.lean ====
section
/-! SUPPORT. Laws/Settling.lean: what the shared operations of plans, payment, write-off and lane restart do, said once. -/

namespace Sys2Proof.Machine

/-! ### Operands -/

theorem clamp_eq (lo hi v : Nat) (h : lo ≤ hi) : clamp lo hi v = max lo (min hi v) := by
  unfold clamp
  split
  · omega
  · split <;> omega

theorem periodOf_code (p : Period) : periodOf p.code = some p := by cases p <;> rfl

theorem roleOfCode_code (r : Role) : roleOfCode r.code = some r := by cases r <;> rfl

theorem rateOf_some (n : Nat) (h : n ≤ 3) : ∃ r, rateOf n = some r ∧ r.code = n := by
  interval_cases n <;> exact ⟨_, rfl, rfl⟩

theorem rateOf_none (n : Nat) (h : 3 < n) : rateOf n = none := by
  unfold rateOf
  split <;> first | omega | rfl

theorem rate_code_inj (a b : Rate) (h : a.code = b.code) : a = b := by cases a <;> cases b <;> first | rfl | cases h

/-! ### Plans (R127, R131, R141) -/

/-- A set that fits n shares passes the check of R127. -/
theorem goodSet_of_fits (n : Nat) (set : BitVec 12) (h : SetFits n set) : goodSet n set = true := by
  obtain ⟨h0, h1⟩ := h
  have hpos : 0 < set.toNat := by
    rcases Nat.eq_zero_or_pos set.toNat with h | h
    · exact absurd (BitVec.eq_of_toNat_eq (by simpa using h)) h0
    · exact h
  have hlt : set.toNat < 2 ^ n := by
    apply Nat.lt_pow_two_of_testBit
    intro i hi
    by_contra hc
    rw [Bool.not_eq_false] at hc
    have := h1 (i + 1) (by omega) (by simp [inSet, BitVec.getLsbD, hc])
    omega
  simp only [goodSet, decide_eq_true hpos, decide_eq_true hlt, Bool.and_self]

/-- An index that an ACTIVE line has names an ACTIVE line. -/
theorem Tab.activeLine_found (t : Tab) (ix : Nat) (h : ∃ l ∈ t.lines, l.index = ix ∧ l.voided = false) :
    (t.activeLine ix).isNone = false := by
  obtain ⟨l, hl, hi, hv⟩ := h
  rw [Option.isNone_eq_false_iff, Tab.activeLine, List.find?_isSome]
  exact ⟨l, hl, by simp [hi, hv]⟩

/-- A list of entries that each name an ACTIVE line once, with a set that fits, has no failing entry (R127). -/
theorem badEntry_none (t : Tab) (n : Nat) : ∀ (es : List SplitEntry) (pos : Nat) (earlier : List Nat),
    (∀ e ∈ es, (∃ l ∈ t.lines, l.index = e.index ∧ l.voided = false) ∧ SetFits n e.set) →
    (es.map SplitEntry.index).Nodup → (∀ e ∈ es, e.index ∉ earlier) → badEntry t n pos earlier es = none := by
  intro es
  induction es with
  | nil => intros; rfl
  | cons e r ih =>
    intro pos earlier h hnd hd
    simp only [badEntry]
    rw [if_neg (by rw [Tab.activeLine_found t e.index (h e (by simp)).1]; simp),
      if_neg (by rw [goodSet_of_fits n _ (h e (by simp)).2]; simp), if_neg (by simpa using hd e (by simp))]
    simp only [List.map_cons, List.nodup_cons] at hnd
    refine ih _ _ (fun e' he' => h e' (by simp [he'])) hnd.2 ?_
    intro e' he' hc
    simp only [List.mem_cons] at hc
    rcases hc with hc | hc
    · exact hnd.1 (by rw [← hc]; exact List.mem_map_of_mem he')
    · exact hd e' (by simp [he']) hc

@[simp] theorem splitShares_length (rate : Nat → Nat) (service : Nat) (totals : Totals) (n : Nat) (lines : List Line) :
    (splitShares rate service totals n lines).length = n := by
  simp [splitShares]

theorem splitShares_unpaid (rate : Nat → Nat) (service : Nat) (totals : Totals) (n : Nat) (lines : List Line) :
    ∀ x ∈ splitShares rate service totals n lines, x.pay = .unpaid := by
  intro x hx
  simp only [splitShares, List.mem_map] at hx
  obtain ⟨i, -, rfl⟩ := hx
  rfl

/-! ### Payment (R147, R155) -/

/-- The checks of a tender pass on a share of a tab in payment. -/
theorem State.tenderChecks_pass {s : State} {tab j : Nat} {t : Tab} {x : Share} (ht : s.tab tab = some t) (hst : t.state = .settling)
    (hx : t.share j = some x) (f : Tab → List Field) : s.tenderChecks tab j f = .ok (t, x) := by
  simp only [State.tenderChecks, ht, hst, hx]
  rfl

/-- A write-off adds nothing to the paid figures (R155, R161). -/
theorem figuresOf_writtenOff (l : List Share) : figuresOf (l.map Share.writtenOff) = figuresOf l := by
  induction l with
  | nil => rfl
  | cons a r ih =>
    have h : a.writtenOff.figures = a.figures := by
      rcases a with ⟨g, ts, sv, tt, p⟩
      cases p <;> rfl
    simp only [figuresOf, List.map_cons, List.sum_cons, Prod.mk.injEq, h] at ih ⊢
    rw [ih.1, ih.2]
    exact ⟨rfl, rfl⟩

/-! ### Write-off (R99) -/

theorem killAndRestore_ticket (s : State) (n m : Nat) : (s.killAndRestore n).ticket m = (s.killTicket n).ticket m := by
  unfold State.killAndRestore
  rcases h : s.ticket n with _ | k
  · simp [State.killTicket, h]
  · simp only
    rw [State.ticket_of ((State.restoreTicket_frame _ _).tickets (by simp))]

/-- A ticket that stands after a kill stood before it. -/
theorem killTicket_stood {s : State} {n m : Nat} {k : Ticket} (h : (s.killTicket n).ticket m = some k) : ∃ k0, s.ticket m = some k0 := by
  rcases h0 : s.ticket m with _ | k0
  · exfalso
    unfold State.ticket at h h0
    rw [Table.find_eq_none, ← (killTicket_like s n).keys, ← Table.find_eq_none] at h0
    rw [h0] at h
    cases h
  · exact ⟨k0, rfl⟩

/-- The kills of a write-off, none of a LIVE ticket: each ticket named is KILLED, every other keeps its state, and all keep their
lines. -/
theorem killAndRestore_fold (ns : List Nat) : ∀ s : State, (∀ n ∈ ns, ∀ k, s.ticket n = some k → k.state ≠ .live) →
    ∀ n k, s.ticket n = some k → ∃ k', (ns.foldl State.killAndRestore s).ticket n = some k' ∧ k'.refs = k.refs ∧
      (n ∉ ns → k'.state = k.state) ∧ (n ∈ ns → k'.state = .killed) := by
  induction ns with
  | nil => exact fun s _ n k h => ⟨k, h, rfl, fun _ => rfl, by simp⟩
  | cons a r ih =>
    intro s hs n k hk
    simp only [List.foldl_cons]
    have hother : ∀ m, m ≠ a → ∀ k, s.ticket m = some k →
        ∃ k', (s.killAndRestore a).ticket m = some k' ∧ k'.state = k.state ∧ k'.refs = k.refs := by
      intro m hm k hk
      rw [killAndRestore_ticket]
      obtain ⟨k', h1, h2⟩ := State.killTicket_other s a m hm k hk
      rcases h2 with rfl | rfl | ⟨⟨x, hx, hl⟩, -⟩
      · exact ⟨_, h1, rfl, rfl⟩
      · exact ⟨_, h1, rfl, rfl⟩
      · exact absurd hl (hs a (by simp) x hx)
    have hself : ∀ k, s.ticket a = some k →
        ∃ k', (s.killAndRestore a).ticket a = some k' ∧ k'.state = .killed ∧ k'.refs = k.refs := by
      intro k hk
      rw [killAndRestore_ticket]
      exact ⟨_, (State.killTicket_killed s a k hk).1, rfl, rfl⟩
    have hs' : ∀ m ∈ r, ∀ k, (s.killAndRestore a).ticket m = some k → k.state ≠ .live := by
      intro m hm k hk2
      obtain ⟨k0, hk0⟩ := killTicket_stood (by rw [← killAndRestore_ticket]; exact hk2)
      by_cases hma : m = a
      · subst hma
        obtain ⟨k', h1, h2, -⟩ := hself k0 hk0
        rw [h1] at hk2
        cases hk2
        rw [h2]
        simp
      · obtain ⟨k', h1, h2, -⟩ := hother m hma k0 hk0
        rw [h1] at hk2
        cases hk2
        rw [h2]
        exact hs m (by simp [hm]) k0 hk0
    by_cases hna : n = a
    · subst hna
      obtain ⟨k', h1, h2, h3⟩ := hself k hk
      obtain ⟨k'', g1, g2, g3, g4⟩ := ih _ hs' n k' h1
      refine ⟨k'', g1, g2.trans h3, by simp, fun _ => ?_⟩
      by_cases hr : n ∈ r
      · exact g4 hr
      · rw [g3 hr, h2]
    · obtain ⟨k', h1, h2, h3⟩ := hother n hna k hk
      obtain ⟨k'', g1, g2, g3, g4⟩ := ih _ hs' n k' h1
      refine ⟨k'', g1, g2.trans h3, fun hn => ?_, fun hn => ?_⟩
      · rw [g3 (by simp at hn; exact hn.2), h2]
      · exact g4 (by simpa [hna] using hn)

/-! ### Lane restart (R170, R185) -/

theorem mem_laneDrops (l : Fin 4) (d : Nat) (hd : d ≤ 32) : d ∈ laneDrops l ↔ d ≠ 0 ∧ laneOf d = l := by
  revert l
  interval_cases d <;> decide

theorem State.clearDrops_drop (s : State) (l : Fin 4) (d : Nat) (hd : isDrop d = true) :
    (s.clearDrops l).drop d = if laneOf d = l then .cold else s.drop d := by
  have key : ∀ (ds : List Nat) (s : State),
      (ds.foldl (fun st d => st.setDrop d .cold) s).drop d = if d ∈ ds then .cold else s.drop d := by
    intro ds
    induction ds with
    | nil => simp
    | cons a r ih =>
      intro s
      simp only [List.foldl_cons, ih, List.mem_cons]
      by_cases h : d ∈ r
      · simp [h]
      · by_cases ha : d = a
        · subst ha
          simp [h, hd]
        · simp [h, ha]
  rw [isDrop_iff] at hd
  have h0 : d ≠ 0 := by omega
  simp [State.clearDrops, key, mem_laneDrops l d hd.2, h0]

theorem State.clearViews_view (s : State) (l : Fin 4) (d : Nat) (hd : d ≤ 32) :
    (s.clearViews l).view d = if d ≠ 0 ∧ laneOf d = l then none else s.view d := by
  have key : ∀ (ds : List Nat), (∀ x ∈ ds, x ≤ 32) → ∀ (s : State),
      (ds.foldl (fun st d => st.setView d none) s).view d = if d ∈ ds then none else s.view d := by
    intro ds
    induction ds with
    | nil => simp
    | cons a r ih =>
      intro h32 s
      simp only [List.foldl_cons, ih (fun x hx => h32 x (by simp [hx])), List.mem_cons]
      by_cases h : d ∈ r
      · simp [h]
      · by_cases ha : d = a
        · subst ha
          simp [h]
        · rw [State.view_setView_other _ _ _ _ (h32 a (by simp)) hd ha]
          simp [h, ha]
  rw [State.clearViews, key _ (by revert l; decide)]
  simp [mem_laneDrops l d hd]

/-- Everything a lane restart does (R170). -/
theorem State.restartLane_spec (s : State) (l : Fin 4) :
    RestartsLane l s (s.restartLane l) ∧ (s.restartLane l).lane l = { s.lane l with passCount := 0, position := 1, phase := .ready } := by
  have hl : ((s.clearDrops l).clearViews l).lane = s.lane := by
    funext m
    rw [State.lane_of ((clearViews_frame _ l).lanes (by simp)), State.lane_of ((clearDrops_frame _ l).lanes (by simp))]
  have hdr : ∀ d, isDrop d = true → (s.restartLane l).drop d = if laneOf d = l then .cold else s.drop d := by
    intro d hd
    rw [← State.clearDrops_drop s l d hd, State.restartLane]
    simp only []
    rw [State.drop_setLane, State.drop_of ((clearViews_frame _ l).drops (by simp))]
  have hv : ∀ d, d ≤ 32 → (s.restartLane l).view d = if d ≠ 0 ∧ laneOf d = l then none else s.view d := by
    intro d hd
    rw [State.restartLane]
    simp only []
    rw [State.view_setLane, State.clearViews_view _ l d hd, State.view_of ((clearDrops_frame _ l).views (by simp))]
  have hln : (s.restartLane l).lane l = { s.lane l with passCount := 0, position := 1, phase := .ready } := by
    simp only [State.restartLane, State.lane_setLane_same, hl]
  refine ⟨⟨?_, ?_, ?_, ?_, ?_⟩, hln⟩
  · rw [hln]
    exact ⟨rfl, rfl, rfl⟩
  · intro m hm
    simp only [State.restartLane]
    rw [State.lane_setLane_other _ _ _ _ hm, hl]
  · intro d hd he
    have h := (isDrop_iff d).mp hd
    have h0 : d ≠ 0 := by omega
    rw [hdr d hd, hv d h.2]
    simp [he, h0]
  · intro d hd he
    rw [hdr d hd, hv d ((isDrop_iff d).mp hd).2]
    simp [he]
  · rw [hv 0 (by omega)]
    simp

/-- Everything the storing of one lane's settings does (R169, R185). -/
theorem State.configLane_spec (s : State) (l : Fin 4) (r : Rate) (w : Nat) :
    (∀ m, m ≠ l → (s.configLane l r w).lane m = s.lane m) ∧
    ((s.configLane l r w).lane l =
      if (s.lane l).rate = r then { s.lane l with window := clamp 2 20 w }
      else { s.lane l with rate := r, window := clamp 2 20 w, passCount := 0, position := 1, phase := .ready }) ∧
    (∀ d, isDrop d = true → (s.configLane l r w).drop d = if laneOf d = l ∧ (s.lane l).rate ≠ r then .cold else s.drop d) ∧
    (∀ d, isDrop d = true → (s.configLane l r w).view d = if laneOf d = l ∧ (s.lane l).rate ≠ r then none else s.view d) ∧
    (s.configLane l r w).view 0 = s.view 0 := by
  unfold State.configLane
  simp only
  by_cases hr : (s.lane l).rate = r
  · rw [if_pos hr]
    refine ⟨?_, ?_, ?_, ?_, rfl⟩
    · intro m hm
      rw [State.lane_setLane_other _ _ _ _ hm]
    · rw [State.lane_setLane_same, if_pos hr, ← hr]
    · intro d _
      rw [if_neg (by simp [hr])]
      rfl
    · intro d _
      rw [if_neg (by simp [hr])]
      rfl
  · rw [if_neg hr]
    obtain ⟨⟨-, h2, h3, h4, h5⟩, h6⟩ := State.restartLane_spec (s.setLane l { s.lane l with rate := r, window := clamp 2 20 w }) l
    refine ⟨?_, ?_, ?_, ?_, h5⟩
    · intro m hm
      rw [h2 m hm, State.lane_setLane_other _ _ _ _ hm]
    · rw [h6, State.lane_setLane_same, if_neg hr]
    · intro d hd
      by_cases he : laneOf d = l
      · rw [if_pos ⟨he, hr⟩]
        exact (h3 d hd he).1
      · rw [if_neg (by simp [he])]
        exact (h4 d hd he).1
    · intro d hd
      by_cases he : laneOf d = l
      · rw [if_pos ⟨he, hr⟩]
        exact (h3 d hd he).2
      · rw [if_neg (by simp [he])]
        exact (h4 d hd he).2

end Sys2Proof.Machine
end

