-- ==== Sys2Proof/Laws/Restores.lean ====
section
/-! SUPPORT. Laws/Restores.lean: the units that lines and killed tickets give back to the menu table (R30, R97, R99). -/

namespace Sys2Proof.Machine

/-- An item with units added back (R30). -/
def Item.back (i : Item) (n : Nat) : Item := { i with stock := i.stock.map fun c => min 9999 (c + n) }

/-- No tracked count stands above 9,999. -/
def State.CountsFit (s : State) : Prop := ∀ x i, s.item x = some i → i.stock.getD 0 ≤ 9999

theorem Item.back_zero (i : Item) (h : i.stock.getD 0 ≤ 9999) : i.back 0 = i := by
  rcases i with ⟨a, b, c, d, e, f, g, st, j⟩
  cases st with
  | none => rfl
  | some c => simp at h; simp [Item.back, h]

theorem Item.back_back (i : Item) (a b : Nat) : (i.back a).back b = i.back (a + b) := by
  rcases i with ⟨_, _, _, _, _, _, _, st, j⟩
  cases st with
  | none => rfl
  | some c => simp [Item.back]; omega

/-- What a line's restore does to an item (R30). -/
theorem State.restore_back (s : State) (hb : State.CountsFit s) (l : Line) (x : Nat) : (s.restore l).item x = (s.item x).map fun i => i.back (l.unitsOf x) := by
  rw [State.restore_item]
  split
  · rfl
  · rename_i h
    rw [Line.unitsOf, List.count_eq_zero_of_not_mem h, Nat.mul_zero]
    rcases hx : s.item x with _ | i
    · rfl
    · simp [Item.back_zero i (hb x i hx)]

theorem Item.back_fits (i : Item) (n : Nat) : (i.back n).stock.getD 0 ≤ 9999 := by
  rcases i with ⟨_, _, _, _, _, _, _, st, j⟩
  cases st <;> simp [Item.back]

theorem State.restore_fits (s : State) (hb : State.CountsFit s) (l : Line) : State.CountsFit (s.restore l) := by
  intro x i hi
  rw [State.restore_back s hb] at hi
  obtain ⟨j, -, rfl⟩ := Option.map_eq_some_iff.mp hi
  exact Item.back_fits _ _

/-- The restores of several lines (R30). -/
theorem State.restore_fold (ls : List Line) : ∀ s : State, State.CountsFit s → State.CountsFit (ls.foldl State.restore s) ∧ ∀ x, (ls.foldl State.restore s).item x = (s.item x).map fun i => i.back (ls.map fun l => l.unitsOf x).sum := by
  induction ls with
  | nil =>
    intro s hb
    refine ⟨hb, fun x => ?_⟩
    rcases hx : s.item x with _ | i
    · simp [hx]
    · simp [hx, Item.back_zero i (hb x i hx)]
  | cons l r ih =>
    intro s hb
    obtain ⟨h1, h2⟩ := ih _ (State.restore_fits s hb l)
    refine ⟨h1, fun x => ?_⟩
    rw [List.foldl_cons, h2, State.restore_back s hb, Option.map_map]
    simp [Function.comp_def, Item.back_back]

/-- The kill keeps tab, lines and references of every ticket. -/
theorem killAndRestore_same (s : State) (a n : Nat) (k : Ticket) (hk : s.ticket n = some k) : ∃ k', (s.killAndRestore a).ticket n = some k' ∧ k'.refs = k.refs ∧ k'.tab = k.tab := by
  rw [killAndRestore_ticket]
  by_cases h : n = a
  · subst h
    exact ⟨_, (State.killTicket_killed s n k hk).1, rfl, rfl⟩
  · obtain ⟨k', h1, h2⟩ := State.killTicket_other s a n h k hk
    rcases h2 with rfl | rfl | ⟨-, h2⟩
    · exact ⟨_, h1, rfl, rfl⟩
    · exact ⟨_, h1, rfl, rfl⟩
    · rcases h2 with rfl | rfl <;> exact ⟨_, h1, rfl, rfl⟩

/-- The units the killed tickets of a write-off give back (R99). -/
theorem killAndRestore_items (ns : List Nat) (f : Nat → List Line) : ∀ s : State, State.CountsFit s →
    (∀ n ∈ ns, ∃ k, s.ticket n = some k ∧ s.ticketLines k = f n) →
    ∀ x, (ns.foldl State.killAndRestore s).item x = (s.item x).map fun i => i.back ((ns.flatMap f).map fun l => l.unitsOf x).sum := by
  induction ns with
  | nil =>
    intro s hb _ x
    rcases hx : s.item x with _ | i
    · simp [hx]
    · simp [hx, Item.back_zero i (hb x i hx)]
  | cons a r ih =>
    intro s hb hf x
    obtain ⟨k, hk, hl⟩ := hf a (by simp)
    have e1 : (s.killAndRestore a) = (f a).foldl State.restore (s.killTicket a) := by
      have : (s.killTicket a).tabs = s.tabs := (State.killTicket_frame s a).tabs (by simp)
      simp only [State.killAndRestore, hk, State.restoreTicket, ← hl]
      simp only [State.ticketLines, this]
    have hi : ∀ y, (s.killTicket a).item y = s.item y := fun y => State.item_of ((State.killTicket_frame s a).items (by simp)) y
    have hb1 : State.CountsFit (s.killTicket a) := fun y i h => hb y i (by rw [← hi]; exact h)
    obtain ⟨g1, g2⟩ := State.restore_fold (f a) _ hb1
    rw [List.foldl_cons, ih _ (by rw [e1]; exact g1), e1, g2, hi, Option.map_map]
    · simp [Function.comp_def, Item.back_back]
    · intro n hn
      obtain ⟨k1, hk1, hl1⟩ := hf n (by simp [hn])
      obtain ⟨k2, h2, h3, h4⟩ := killAndRestore_same s a n k1 hk1
      refine ⟨k2, h2, ?_⟩
      rw [← hl1]
      have : (s.killAndRestore a).tabs = s.tabs := (killAndRestore_frame s a).tabs (by simp)
      simp only [State.ticketLines, this, h4]
      have e : k2.names = k1.names := by funext ix; simp only [Ticket.names, h3]
      rw [e]

end Sys2Proof.Machine
end

