-- ==== Sys2Proof/Laws/Sending.lean ====
section
/-! SUPPORT. Laws/Sending.lean: what the two folds of a send do (R83, R86): the lines whose route is lost, and the tickets made. -/

namespace Sys2Proof.Machine

/-! ### Lines changed on a tab -/

theorem Table.edit_edit {α : Type} (m : Table α) (n : Nat) (f g : α → α) : (m.edit n f).edit n g = m.edit n (g ∘ f) := by
  simp only [Table.edit, List.map_map]
  apply List.map_congr_left
  intro e _
  by_cases h : e.1 = n <;> simp [h]

theorem Table.edit_id {α : Type} (m : Table α) (n : Nat) : m.edit n id = m := by
  simp [Table.edit]

/-- A tab with every line changed. -/
def Tab.mapLines (t : Tab) (f : Line → Line) : Tab := { t with lines := t.lines.map f }

theorem Tab.mapLines_mapLines (t : Tab) (f g : Line → Line) : (t.mapLines f).mapLines g = t.mapLines (g ∘ f) := by
  simp [Tab.mapLines]

/-- A line that has lost its route (R83). -/
def Line.lostIn (ls : List Line) (l : Line) : Line := if l.index ∈ ls.map Line.index then { l with stage := .none } else l

/-- The lines whose route is lost: their stage is NONE, and nothing else of any tab changes (R83). -/
theorem loseRoute_fold (n : Nat) (ls : List Line) : ∀ s : State,
    (ls.foldl (State.loseRoute n) s).tabs = s.tabs.edit n fun t => t.mapLines (Line.lostIn ls) := by
  induction ls with
  | nil =>
    intro s
    have : (fun t : Tab => t.mapLines (Line.lostIn [])) = id := by
      funext t
      have e : Line.lostIn [] = id := by
        funext l
        simp [Line.lostIn]
      simp [Tab.mapLines, e]
    rw [this, Table.edit_id]
    rfl
  | cons a r ih =>
    intro s
    rw [List.foldl_cons, ih]
    have h1 : (State.loseRoute n s a).tabs = s.tabs.edit n fun t => t.editLines (· == a.index) fun l => { l with stage := .none } := by
      rw [State.loseRoute, (State.enterAlert_frame _ _ _).tabs (by simp)]
      rfl
    rw [h1, Table.edit_edit]
    congr 1
    funext t
    simp only [Function.comp_apply, Tab.mapLines, Tab.editLines, List.map_map, Tab.mk.injEq, true_and, and_true]
    apply List.map_congr_left
    intro l _
    by_cases h : l.index = a.index <;> by_cases h2 : l.index ∈ r.map Line.index <;>
      simp_all [Line.lostIn]

/-! ### Tickets made -/

/-- The ticket a run of lines makes (R77, R84). -/
def State.ticketOf (s : State) (tab : Nat) (rush : Bool) (r : Run) : Ticket where
  station := r.station
  original := r.original
  tab := tab
  refs := r.lines.map fun l => ⟨l.index, false⟩
  state := .held
  rush := rush
  fired := none
  fireSeq := 0
  firstShown := none
  front := false
  target := s.targetOf r.lines
  age := 0
  level := 0

/-- A line once the tickets of the runs are made, the numbers beside them: SENT on the first whose run holds it (R86). -/
def Line.sentIn : List (Run × Nat) → Line → Line
  | [], l => l
  | (r, n) :: rest, l => Line.sentIn rest (if (r.lines.map Line.index).contains l.index then { l with stage := .sent, ticket := some n } else l)

theorem Line.sentIn_index (ps : List (Run × Nat)) : ∀ l : Line, (l.sentIn ps).index = l.index := by
  induction ps with
  | nil => exact fun _ => rfl
  | cons p r ih =>
    intro l
    rw [Line.sentIn, ih]
    split <;> rfl

/-- A line in no run is as it was. -/
theorem Line.sentIn_out (ps : List (Run × Nat)) (l : Line) (h : ∀ p ∈ ps, l.index ∉ p.1.lines.map Line.index) : l.sentIn ps = l := by
  induction ps with
  | nil => rfl
  | cons p r ih =>
    have hp : ((p.1.lines.map Line.index).contains l.index) = false := by
      rw [Bool.eq_false_iff, ne_eq, List.contains_iff_mem]
      exact h p (by simp)
    rw [Line.sentIn, hp]
    exact ih fun q hq => h q (by simp [hq])

/-- A line in one run, and in no other, is SENT on that run's ticket. -/
theorem Line.sentIn_run (ps : List (Run × Nat)) (hd : ps.Pairwise fun a b => ∀ x ∈ a.1.lines, ∀ y ∈ b.1.lines, x.index ≠ y.index)
    (p : Run × Nat) (hp : p ∈ ps) (l : Line) (h : l.index ∈ p.1.lines.map Line.index) :
    l.sentIn ps = { l with stage := .sent, ticket := some p.2 } := by
  induction ps with
  | nil => cases hp
  | cons q r ih =>
    rw [List.pairwise_cons] at hd
    rw [Line.sentIn]
    rcases List.mem_cons.mp hp with rfl | hr
    · rw [if_pos (by simpa using h)]
      apply Line.sentIn_out
      intro q hq hc
      simp only [List.mem_map] at h hc
      obtain ⟨x, hx, hxi⟩ := h
      obtain ⟨y, hy, hyi⟩ := hc
      exact hd.1 q hq x hx y hy (hxi.trans hyi.symm)
    · have hn : ¬(q.1.lines.map Line.index).contains l.index = true := by
        rw [List.contains_iff_mem]
        intro hc
        simp only [List.mem_map] at h hc
        obtain ⟨x, hx, hxi⟩ := h
        obtain ⟨y, hy, hyi⟩ := hc
        exact hd.1 p hr y hy x hx (hyi.trans hxi.symm)
      rw [if_neg hn]
      exact ih hd.2 hr

/-- Everything the making of a send's tickets does: as many new tickets as runs, at the end of the table, each with a number of
its own, and the lines of each run SENT on its ticket (R78, R86). -/
theorem makeTicket_fold (tab : Nat) (rush : Bool) (runs : List Run) : ∀ s : State, (s.tickets.map Prod.fst).Nodup →
    s.tickets.length + runs.length ≤ 256 → (1 ≤ s.ticketCounter ∧ s.ticketCounter ≤ 65535) →
    ∃ ns : List Nat, ns.length = runs.length ∧ (s.tickets.map Prod.fst ++ ns).Nodup ∧
      (runs.foldl (State.makeTicket tab rush) s).tickets =
        s.tickets ++ List.zipWith (fun n r => (n, s.ticketOf tab rush r)) ns runs ∧
      (runs.foldl (State.makeTicket tab rush) s).tabs = s.tabs.edit tab fun t => t.mapLines (Line.sentIn (runs.zip ns)) := by
  induction runs with
  | nil =>
    intro s hnd _ _
    refine ⟨[], rfl, by simpa using hnd, by simp, ?_⟩
    have : (fun t : Tab => t.mapLines (Line.sentIn [])) = id := by
      funext t
      have e : Line.sentIn [] = id := rfl
      simp [Tab.mapLines, e]
    simp only [List.foldl_nil, List.zip_nil_left, this, Table.edit_id]
  | cons r rest ih =>
    intro s hnd hlen hc
    rw [List.foldl_cons]
    obtain ⟨s1, hs1⟩ : ∃ s1, s1 = State.makeTicket tab rush s r := ⟨_, rfl⟩
    rw [← hs1]
    obtain ⟨n, hn⟩ : ∃ n, n = firstFree (s.tickets.map Prod.fst) Config.maxTicketNumber (s.tickets.map Prod.fst).length s.ticketCounter := ⟨_, rfl⟩
    simp only [List.length_cons] at hlen
    obtain ⟨f1, f2, -⟩ := firstFree_spec (s.tickets.map Prod.fst) 65535 (by simp; omega) s.ticketCounter hc
    have hmax : Config.maxTicketNumber = 65535 := rfl
    rw [hmax] at hn
    rw [← hn] at f1 f2
    have htk : s1.tickets = s.tickets ++ [(n, s.ticketOf tab rush r)] := by
      rw [hs1, hn]
      rfl
    have htb : s1.tabs = s.tabs.edit tab fun t =>
        t.editLines ((r.lines.map Line.index).contains) fun l => { l with stage := .sent, ticket := some n } := by
      rw [hs1, hn]
      rfl
    have hct : s1.ticketCounter = if n = 65535 then 1 else n + 1 := by
      rw [hs1, hn]
      rfl
    have hto : ∀ x, s1.ticketOf tab rush x = s.ticketOf tab rush x := by
      intro x
      have hi : s1.items = s.items := by rw [hs1]; rfl
      simp only [State.ticketOf, State.targetOf, State.item, hi]
    obtain ⟨ns, h1, h2, h3, h4⟩ := ih s1
      (by
        rw [htk, List.map_append, List.nodup_append]
        refine ⟨hnd, by simp, ?_⟩
        intro a ha b hb
        simp only [List.map_cons, List.map_nil, List.mem_singleton] at hb
        subst hb
        exact fun hab => f2 (hab ▸ ha))
      (by rw [htk]; simp; omega)
      (by rw [hct]; split <;> omega)
    refine ⟨n :: ns, by simp [h1], ?_, ?_, ?_⟩
    · rw [htk] at h2
      simpa using h2
    · rw [h3, htk]
      simp [hto]
    · rw [h4, htb, Table.edit_edit]
      congr 1
      funext t
      simp only [Function.comp_apply, Tab.mapLines, Tab.editLines, List.map_map, List.zip_cons_cons, Tab.mk.injEq, true_and, and_true]
      apply List.map_congr_left
      intro l _
      simp only [Function.comp_apply, Line.sentIn]

/-- The keys of the tickets made. -/
theorem zipWith_keys {β : Type} (f : Run → β) : ∀ (ns : List Nat) (runs : List Run), ns.length = runs.length →
    (List.zipWith (fun n r => (n, f r)) ns runs).map Prod.fst = ns := by
  intro ns
  induction ns with
  | nil => simp
  | cons n r ih =>
    intro runs h
    rcases runs with _ | ⟨x, rest⟩
    · simp at h
    · simp only [List.length_cons, Nat.add_right_cancel_iff] at h
      simp [ih rest h]

/-! ### How many tickets -/

/-- A sum in which one term has grown. -/
theorem sum_map_bump {α : Type} [DecidableEq α] (f g : α → Nat) (a : α) (k : Nat) (hfg : ∀ x, x ≠ a → f x = g x) (ha : f a = g a + k) :
    ∀ D : List α, D.Nodup → a ∈ D → (D.map f).sum = (D.map g).sum + k := by
  intro D
  induction D with
  | nil => simp
  | cons x r ih =>
    intro hn hm
    have hn' := List.nodup_cons.mp hn
    by_cases hx : x = a
    · subst hx
      have : r.map f = r.map g := List.map_congr_left fun y hy => hfg y (fun e => hn'.1 (e ▸ hy))
      simp [this, ha]; omega
    · have := ih hn'.2 (by simpa [Ne.symm hx] using hm)
      simp [this, hfg x hx]; omega

/-- How many tickets a send makes: each destination's lines by sixteens (R84). -/
theorem runsFrom_count (all : List Routed) (D : List Dest) (hD : D.Nodup) (hl : Dest.lost ∉ D) : ∀ (before rest : List Routed),
    (∀ r ∈ rest, r.dest ≠ .lost → r.dest ∈ D) →
    (D.map fun d => ((groupOf before d).length + 15) / 16).sum + (runsFrom all before rest).length =
      (D.map fun d => ((groupOf (before ++ rest) d).length + 15) / 16).sum := by
  intro before rest
  induction rest generalizing before with
  | nil => simp [runsFrom]
  | cons r rest ih =>
    intro h
    have hi := ih (before ++ [r]) (fun x hx => h x (by simp [hx]))
    rw [List.append_assoc, List.singleton_append] at hi
    rw [← hi]
    have hgo : ∀ d, groupOf (before ++ [r]) d = groupOf before d ++ if r.dest = d then [r.line] else [] := by
      intro d; rw [groupOf_append]; congr 1
      simp only [groupOf, List.filter_cons, List.filter_nil]
      by_cases hd : r.dest = d <;> simp [hd]
    simp only [runsFrom]
    rcases hd : r.dest with _ | ⟨d, o⟩
    · have : ∀ x ∈ D, groupOf (before ++ [r]) x = groupOf before x := by
        intro x hx; rw [hgo, hd, if_neg (fun e : Dest.lost = x => hl (by rw [e]; exact hx)), List.append_nil]
      have e2 : (D.map fun d => ((groupOf (before ++ [r]) d).length + 15) / 16) = D.map fun d => ((groupOf before d).length + 15) / 16 :=
        List.map_congr_left (fun x hx => by rw [this x hx])
      rw [e2]
    · have hm : Dest.to d o ∈ D := by rw [← hd]; exact h r (by simp) (by rw [hd]; simp)
      by_cases hc : (groupOf before (.to d o)).length % 16 = 0
      · have := sum_map_bump (fun d => ((groupOf (before ++ [r]) d).length + 15) / 16) (fun d => ((groupOf before d).length + 15) / 16) (.to d o) 1
          (by intro x hx; simp only [hgo, hd, if_neg (Ne.symm hx), List.append_nil]) (by simp only [hgo, hd, if_true, List.length_append, List.length_singleton]; omega) D hD hm
        rw [this]
        simp only [show Config.ticketLines = 16 from rfl, hc, if_true, List.length_cons]; omega
      · have := sum_map_bump (fun d => ((groupOf (before ++ [r]) d).length + 15) / 16) (fun d => ((groupOf before d).length + 15) / 16) (.to d o) 0
          (by intro x hx; simp only [hgo, hd, if_neg (Ne.symm hx), List.append_nil]) (by simp only [hgo, hd, if_true, List.length_append, List.length_singleton]; omega) D hD hm
        rw [this]
        simp only [show Config.ticketLines = 16 from rfl, hc, if_false]; omega

end Sys2Proof.Machine
end

