-- ==== Sys2Proof/Laws/Steps.lean ====
section
/-! SUPPORT. Laws/Steps.lean: how a law of the state is carried over a step: it is enough that each owner and each of the part's own
events keep it. -/

namespace Sys2Proof.Machine

/-- The kind, the sender and the owner of a request command; none for the part's own events. -/
def ownerOf : Instr → Option (ReqKind × Nat × (State → State × Reply))
  | .openTab src kind label => some (.openTab, src, openTab src kind label)
  | .addLine src tab rev item qty mods => some (.addLine, src, addLine tab rev item qty mods)
  | .voidLine src tab rev index => some (.voidLine, src, voidLine tab rev index)
  | .setLabel src tab rev label => some (.setLabel, src, setLabel tab rev label)
  | .setService src tab rev rate => some (.setService, src, setService tab rev rate)
  | .closeEmpty src tab rev => some (.closeEmpty, src, closeEmpty tab rev)
  | .mergeTabs src a ra b rb => some (.mergeTabs, src, mergeTabs a ra b rb)
  | .send src tab hold rush => some (.send, src, sendRequest tab hold rush)
  | .fire src tab => some (.fire, src, fireRequest tab)
  | .split src tab rev n entries => some (.split, src, splitRequest tab rev n entries)
  | .assign src tab rev index set => some (.assign, src, assignRequest tab rev index set)
  | .unsplit src tab rev => some (.unsplit, src, unsplitRequest tab rev)
  | .tenderBegin src tab share => some (.tenderBegin, src, tenderBegin src tab share)
  | .tenderCommit src tab share kind tendered tip => some (.tenderCommit, src, tenderCommit src tab share kind tendered tip)
  | .tenderCancel src tab share => some (.tenderCancel, src, tenderCancel src tab share)
  | .quote src item => some (.quote, src, quoteRequest item)
  | .findTab src form start key => some (.findTab, src, findTab form start key)
  | .readTab src tab page => some (.readTab, src, readTab src tab page)
  | .bump src ticket => some (.bump, src, bumpRequest src ticket)
  | .recall src => some (.recall, src, recallRequest src)
  | .markSoldOut src item => some (.markSoldOut, src, markSoldOut item)
  | .redrawMe src => some (.redrawMe, src, redrawRequest src)
  | .loadItem src item kind name price cls route prep restricted low =>
      some (.loadItem, src, loadItem item kind name price cls route prep restricted low)
  | .setPrice src item price => some (.setPrice, src, setPrice item price)
  | .setStock src item stock => some (.setStock, src, setStock item stock)
  | .loadTax src cls rate => some (.loadTax, src, loadTax cls rate)
  | .loadStation src drop depth limit crew fallback prep interval =>
      some (.loadStation, src, loadStation drop depth limit crew fallback prep interval)
  | .setConfig src hold settings => some (.setConfig, src, setConfig hold settings)
  | .setLaneRole src lane role => some (.setLaneRole, src, setLaneRole lane role)
  | .laneRestart src lane => some (.laneRestart, src, laneRestart lane)
  | .setPeriod src period => some (.setPeriod, src, setPeriod period)
  | .endDay src => some (.endDay, src, endDay)
  | .readAlert src => some (.readAlert, src, readAlert)
  | .readDrawer src drawer => some (.readDrawer, src, readDrawer drawer)
  | .closeDrawer src drawer => some (.closeDrawer, src, closeDrawer drawer)
  | .writeOff src tab => some (.writeOff, src, writeOff tab)
  | .killTicket src ticket => some (.killTicket, src, killRequest ticket)
  | .readConfig src => some (.readConfig, src, readConfig)
  | .resetHold _ | .resetRelease _ _ | .settleEnd | .secondsTick => none
  | .holdExpiry _ _ | .recallWindowExpiry _ | .overdueRise _ => none
  | .poll _ | .answerMiss _ | .goodAnswer _ _ | .chipSelectFall _ | .chipSelectRise _ | .pollEnd _ => none

/-- A request command is its owner's request. -/
theorem exec_request {i : Instr} {k : ReqKind} {src : Nat} {o : State → State × Reply} (h : ownerOf i = some (k, src, o)) (s : State) :
    exec i s = request k src o s := by
  cases i <;> simp only [ownerOf, Option.some.injEq, Prod.mk.injEq, reduceCtorEq] at h <;> obtain ⟨rfl, rfl, rfl⟩ := h <;> rfl

/-- The request a frame carries is its owner's request. -/
theorem takeRequest_request {i : Instr} {k : ReqKind} {src : Nat} {o : State → State × Reply} (h : ownerOf i = some (k, src, o)) (s : State) :
    takeRequest i s = request k src o s := by
  cases i <;> simp only [ownerOf, Option.some.injEq, Prod.mk.injEq, reduceCtorEq] at h <;> obtain ⟨rfl, rfl, rfl⟩ := h <;> rfl

/-- No frame carries one of the part's own events. -/
theorem takeRequest_event {i : Instr} (h : ownerOf i = none) (s : State) : takeRequest i s = .next s := by
  cases i <;> simp [ownerOf] at h <;> rfl

/-- The fields a request's owner may change. -/
def ownerParts : Instr → List Part
  | .openTab _ _ _ => [.tabs, .tabCounter]
  | .addLine _ _ _ _ _ _ => [.tabs, .items, .alerts, .alertsFull, .drops]
  | .voidLine _ _ _ _ => [.tabs, .items, .tickets, .views, .stations, .drops]
  | .setLabel _ _ _ _ | .setService _ _ _ _ | .split _ _ _ _ _ | .assign _ _ _ _ _ | .unsplit _ _ _ => [.tabs]
  | .closeEmpty _ _ _ => [.tabs, .tickets, .views, .stations]
  | .mergeTabs _ _ _ _ _ => [.tabs, .tickets, .views, .stations, .freeDraws]
  | .send _ _ _ _ => .views :: sendParts
  | .fire _ _ => [.stations, .tickets, .fireCount, .drops]
  | .tenderBegin _ _ _ | .tenderCancel _ _ _ => [.tabs, .holds]
  | .tenderCommit _ _ _ _ _ _ => commitParts
  | .readTab _ _ _ => [.views]
  | .bump _ _ => [.tabs, .tickets, .views, .stations, .drops]
  | .recall _ => [.tabs, .tickets, .stations, .drops]
  | .markSoldOut _ _ => [.items, .alerts, .alertsFull, .drops]
  | .redrawMe _ => [.drops]
  | .loadItem _ _ _ _ _ _ _ _ _ _ | .setPrice _ _ _ | .setStock _ _ _ => [.items]
  | .loadTax _ _ _ => [.taxRates]
  | .loadStation _ _ _ _ _ _ _ _ => [.tickets, .stations, .drops]
  | .setConfig _ _ _ => [.holdTime, .lanes, .drops, .views]
  | .setLaneRole _ _ _ | .laneRestart _ _ => [.lanes, .drops, .views]
  | .setPeriod _ _ => [.period, .drops]
  | .endDay _ => [.period, .drops, .drawers, .writeOffTotal, .tabCounter, .ticketCounter, .stations, .alerts, .alertsFull]
  | .readAlert _ => [.alerts, .alertsFull]
  | .closeDrawer _ _ => [.drawers]
  | .writeOff _ _ => [.tabs, .items, .tickets, .views, .stations, .drops, .writeOffTotal]
  | .killTicket _ _ => [.tabs, .items, .tickets, .views, .stations, .drops]
  | .quote _ _ | .findTab _ _ _ _ | .readDrawer _ _ | .readConfig _ => []
  | .resetHold _ | .resetRelease _ _ | .settleEnd | .secondsTick => []
  | .holdExpiry _ _ | .recallWindowExpiry _ | .overdueRise _ => []
  | .poll _ | .answerMiss _ | .goodAnswer _ _ | .chipSelectFall _ | .chipSelectRise _ | .pollEnd _ => []

/-- A request's owner changes no other field. -/
theorem owner_frame {i : Instr} {k : ReqKind} {src : Nat} {o : State → State × Reply} (h : ownerOf i = some (k, src, o)) (s : State) :
    SameBut (ownerParts i) s (o s).1 := by
  cases i <;> simp only [ownerOf, Option.some.injEq, Prod.mk.injEq, reduceCtorEq] at h <;> obtain ⟨rfl, rfl, rfl⟩ := h
  case openTab => exact openTab_frame _ _ _ s
  case addLine => exact addLine_frame _ _ _ _ _ s
  case voidLine => exact voidLine_frame _ _ _ s
  case setLabel => exact setLabel_frame _ _ _ s
  case setService => exact setService_frame _ _ _ s
  case closeEmpty => exact closeEmpty_frame _ _ s
  case mergeTabs => exact mergeTabs_frame _ _ _ _ s
  case send => exact sendRequest_frame _ _ _ s
  case fire => exact fireRequest_frame _ s
  case split => exact splitRequest_frame _ _ _ _ s
  case assign => exact assignRequest_frame _ _ _ _ s
  case unsplit => exact unsplitRequest_frame _ _ s
  case tenderBegin => exact tenderBegin_frame _ _ _ s
  case tenderCommit => exact tenderCommit_frame _ _ _ _ _ _ s
  case tenderCancel => exact tenderCancel_frame _ _ _ s
  case quote => rw [quoteRequest_frame]; exact SameBut.refl _ s
  case findTab => rw [findTab_frame]; exact SameBut.refl _ s
  case readTab => exact readTab_frame _ _ _ s
  case bump => exact bumpRequest_frame _ _ s
  case markSoldOut => exact markSoldOut_frame _ s
  case redrawMe => exact redrawRequest_frame _ s
  case loadItem => exact loadItem_frame _ _ _ _ _ _ _ _ _ s
  case setPrice => exact setPrice_frame _ _ s
  case setStock => exact setStock_frame _ _ s
  case loadTax => exact loadTax_frame _ _ s
  case loadStation => exact loadStation_frame _ _ _ _ _ _ _ s
  case setConfig => exact setConfig_frame _ _ s
  case setLaneRole => exact setLaneRole_frame _ _ s
  case laneRestart => exact laneRestart_frame _ s
  case setPeriod => exact setPeriod_frame _ s
  case endDay => exact endDay_frame s
  case readAlert => exact readAlert_frame s
  case readDrawer => rw [readDrawer_frame]; exact SameBut.refl _ s
  case closeDrawer => exact closeDrawer_frame _ s
  case writeOff => exact writeOff_frame _ s
  case killTicket => exact killRequest_frame _ s
  case readConfig => exact SameBut.refl _ s
  exact recallRequest_frame _ s

/-- The fields a law of the part's records does not speak of. -/
abbrev linkParts : List Part := [.mode, .resetPinLow, .supplyNotGood, .cfgHigh, .transfer, .answerSlot, .pending]

/-- What makes a law of the part's records one that every step keeps. -/
structure Carried (P : State → Prop) : Prop where
  /-- The law speaks of no field of the reset, of the link or of the queue. -/
  link : ∀ s t, SameBut linkParts s t → P s → P t
  /-- A cold start meets it. -/
  cold : ∀ (s : State) (m : Mode), P (s.coldKeeping m)
  /-- Placing a drop's answer keeps it. -/
  slot : ∀ (s : State) (d : Nat) (r : Result), P s → P (s.setDrop d { s.drop d with slot := some r })
  /-- Every owner keeps it when its request is admitted. -/
  owner : ∀ i k src o s, ownerOf i = some (k, src, o) → s.admits k src = true → P s → P (o s).1
  /-- What a tick brings keeps it. -/
  expire : ∀ s n j, P s → P (State.expireHold s n j)
  window : ∀ s d, P s → P (State.endWindow s d)
  rise : ∀ s n, P s → P (State.rise s n)
  due : ∀ (s : State) (ns : List DueRise), P s → P { s with risesDue := ns }
  tick : ∀ s, P s → P (State.tick s)
  /-- The lanes keep it. -/
  poll : ∀ s l, (State.lane s l).phase = .ready → P s → P (State.beginPoll s l)
  turn : ∀ (s : State) l w, P s → P (s.setLane l { s.lane l with phase := .awaiting w })
  miss : ∀ s l, P s → P (State.miss s l)
  heard : ∀ s l, P s → P (State.heard s l)

namespace Carried

variable {P : State → Prop} (h : Carried P)
include h

theorem place (s : State) (src : Nat) (r : Result) (hs : P s) : P (s.place src r) := by
  unfold State.place
  split
  · exact h.link s _ (by constructor <;> intro hn <;> first | rfl | exact absurd (by simp) hn) hs
  · exact h.slot s src r hs

theorem request {i : Instr} {k : ReqKind} {src : Nat} {o : State → State × Reply} (hi : ownerOf i = some (k, src, o)) {s t : State}
    (hs : P s) (he : Machine.request k src o s = .next t) : P t :=
  request_keeps hs (fun ha => h.owner i k src o s hi ha hs) (fun u r hu => h.place u src r hu) he

theorem frame {src kind : Nat} {payload : List Byte} {empty : State → State} (hempty : ∀ s, P s → P (empty s)) {s t : State}
    (hs : P s) (he : takeFrame src kind payload empty s = .next t) : P t := by
  unfold takeFrame at he
  split at he
  · cases he
    exact hempty s hs
  · split at he
    · cases he
      exact h.place s src _ hs
    · rename_i i _
      rcases ho : ownerOf i with _ | ⟨k, src', o⟩
      · rw [takeRequest_event ho] at he
        cases he
        exact hs
      · rw [takeRequest_request ho] at he
        exact h.request ho hs he

theorem outstanding (s : State) (hs : P s) : P s.takeOutstanding := by
  have f1 : ∀ (l : List (Nat × Nat)) (u : State), P u → P (l.foldl (fun st p => st.expireHold p.1 p.2) u) := by
    intro l
    induction l with
    | nil => exact fun _ hu => hu
    | cons p r ih => exact fun u hu => ih _ (h.expire _ _ _ hu)
  have f2 : ∀ (l : List Nat) (u : State), P u → P (l.foldl State.rise u) := by
    intro l
    induction l with
    | nil => exact fun _ hu => hu
    | cons p r ih => exact fun u hu => ih _ (h.rise _ _ hu)
  have f3 : ∀ (l : List Nat) (u : State), P u → P (l.foldl State.endWindow u) := by
    intro l
    induction l with
    | nil => exact fun _ hu => hu
    | cons p r ih => exact fun u hu => ih _ (h.window _ _ hu)
  exact f3 _ _ (h.due _ _ (f2 _ _ (f1 _ _ hs)))

theorem exec (i : Instr) (s t : State) (hs : P s) (he : Machine.exec i s = .next t) : P t := by
  rcases ho : ownerOf i with _ | ⟨k, src, o⟩
  · cases i <;> simp only [ownerOf, reduceCtorEq] at ho
    case resetHold c =>
      simp only [Machine.exec, execResetHold] at he
      split at he <;> cases he <;>
        exact h.link (s.coldKeeping .held) _ (by constructor <;> intro hn <;> first | rfl | exact absurd (by simp) hn) (h.cold s _)
    case resetRelease c b =>
      have h1 : P (s.clearCause c) :=
        h.link s _ (by cases c <;> constructor <;> intro hn <;> first | rfl | exact absurd (by simp) hn) hs
      simp only [Machine.exec, execResetRelease] at he
      by_cases hm : s.mode = .held
      · rw [if_pos hm] at he
        by_cases hc : ((s.clearCause c).resetPinLow || (s.clearCause c).supplyNotGood) = true
        · rw [if_pos hc] at he
          cases he
          exact h1
        · rw [if_neg hc] at he
          cases he
          exact h.link (s.clearCause c) _ (by constructor <;> intro hn <;> first | rfl | exact absurd (by simp) hn) h1
      · rw [if_neg hm] at he
        cases he
        exact hs
    case settleEnd =>
      simp only [Machine.exec, execSettleEnd] at he
      split at he <;> cases he
      · exact h.cold s _
      · exact hs
    case secondsTick =>
      have h1 : P s.takeOutstanding.tick := h.tick _ (h.outstanding s hs)
      simp only [Machine.exec, execSecondsTick] at he
      by_cases hm : s.mode = .operating
      · rw [if_pos hm] at he
        rw [← Host.Outcome.next.inj he]
        exact h1
      · rw [if_neg hm] at he
        cases he
        exact hs
    case holdExpiry n j =>
      simp only [Machine.exec, execHoldExpiry] at he
      split at he <;> cases he
      · exact h.expire s n j hs
      · exact hs
    case recallWindowExpiry d =>
      simp only [Machine.exec, execRecallWindowExpiry] at he
      split at he <;> cases he
      · exact h.window s d hs
      · exact hs
    case overdueRise n =>
      simp only [Machine.exec, execOverdueRise] at he
      split at he
      · cases he
        exact hs
      · split at he <;> cases he
        · exact h.due _ _ (h.rise _ _ hs)
        · exact hs
    case poll l =>
      simp only [Machine.exec, execPoll] at he
      split at he <;> cases he
      · rename_i hr
        exact h.poll s l hr.2 hs
      · exact hs
    case answerMiss l =>
      simp only [Machine.exec, execAnswerMiss] at he
      split at he <;> cases he
      · exact h.miss s l hs
      · exact hs
    case goodAnswer l cs =>
      simp only [Machine.exec, execGoodAnswer] at he
      split at he
      · split at he
        · cases he
          exact h.miss s l hs
        · exact h.frame (fun _ hu => hu) (h.heard s l hs) he
      · cases he
        exact hs
    case chipSelectFall us =>
      simp only [Machine.exec, execChipSelectFall] at he
      repeat' split at he
      all_goals
        cases he
        first
        | exact hs
        | exact h.link s _ (by constructor <;> intro hn <;> first | rfl | exact absurd (by simp) hn) hs
    case chipSelectRise bs =>
      have h1 : ∀ u : State, P u → P { u with transfer := .none } := fun u hu =>
        h.link u _ (by constructor <;> intro hn <;> first | rfl | exact absurd (by simp) hn) hu
      have h2 : ∀ u : State, P u → P { u with answerSlot := some .empty } := fun u hu =>
        h.link u _ (by constructor <;> intro hn <;> first | rfl | exact absurd (by simp) hn) hu
      simp only [Machine.exec, execChipSelectRise] at he
      split at he
      · cases he
        exact hs
      · cases he
        exact h1 s hs
      · split at he
        · cases he
          exact h.place _ _ _ (h1 s hs)
        · exact h.frame h2 (h1 s hs) he
    case pollEnd l =>
      simp only [Machine.exec, execPollEnd] at he
      split at he <;> cases he
      · exact h.turn s l _ hs
      · exact hs
  · rw [exec_request ho] at he
    exact h.request ho hs he

/-- Every step keeps the law. -/
theorem step (s t : State) (hs : P s) (he : Machine.step s = .next t) : P t := by
  unfold Machine.step at he
  split at he
  · cases he
    exact hs
  · exact h.exec _ _ _ (h.link s _ (by constructor <;> intro hn <;> first | rfl | exact absurd (by simp) hn) hs) he

end Carried

end Sys2Proof.Machine
end

