-- ==== Sys2Proof/Laws/Times.lean ====
section
/-! SUPPORT. Laws/Times.lean: what a tick takes first, and what a rise's redraw holds (R11, R117, R107). -/

namespace Sys2Proof.Machine

/-- One entry handed to the alert table (R187). -/
theorem State.enterAlert_entered {s t : State} (h1 : t.alerts = s.alerts) (h2 : t.alertsFull = s.alertsFull) (h3 : t.clock = s.clock)
    (kd : AlertKind) (sub : Nat) : ((t.enterAlert kd sub).alerts, (t.enterAlert kd sub).alertsFull) = s.entered [(kd, sub)] := by
  have := State.enterAlert_of (s := s) (t := t) h1 h2 h3 kd sub
  simp [State.entered, this.1, this.2]

/-- A redraw's messages come from the stations, the tickets and the tabs alone (R107). -/
theorem State.redrawMsgs_of {s t : State} (h1 : t.stations = s.stations) (h2 : t.tickets = s.tickets) (h3 : t.tabs = s.tabs) (d : Nat) :
    t.redrawMsgs d = s.redrawMsgs d := by
  have e1 : t.screen d = s.screen d := State.screen_of h1 d
  have e2 : t.showMsgs = s.showMsgs := by
    funext n; simp only [State.showMsgs, State.ticket, State.showOf, h2, h3]
  simp only [State.redrawMsgs, e1, e2]

/-- A tick with nothing left over takes nothing first (log 5). -/
theorem State.takeOutstanding_none (s : State) (h : s.NothingDue) : s.takeOutstanding = s := by
  obtain ⟨h1, h2, h3⟩ := h
  have e1 : ∀ (ps : List (Nat × Nat)), ps.foldl (fun st p => st.expireHold p.1 p.2) s = s := by
    intro ps
    induction ps with
    | nil => rfl
    | cons p r ih =>
      rw [List.foldl_cons]
      have : s.expireHold p.1 p.2 = s := by
        simp only [State.expireHold]
        split
        · rfl
        · rename_i t ht
          split
          · rfl
          · rename_i x hx
            split
            · rename_i till expiry hp
              rw [if_neg]
              intro e; subst e
              have hm := Table.find_some_mem ht
              have hx' : x ∈ (t.settlement.getD []) := by
                simp only [Tab.share] at hx
                split at hx
                · cases hx
                · exact List.mem_of_getElem? hx
              exact h2 _ hm x hx' till hp
            · rfl
      rw [this, ih]
  have e2 : ∀ ds : List Nat, ds.foldl State.endWindow s = s := by
    intro ds
    induction ds with
    | nil => rfl
    | cons d r ih =>
      rw [List.foldl_cons]
      have : s.endWindow d = s := by
        simp only [State.endWindow]
        split
        · rfl
        · rename_i b hb
          rw [if_neg (h3 d b hb)]
      rw [this, ih]
  simp only [State.takeOutstanding, e1, h1, List.filter_nil, List.map_nil, List.foldl_nil]
  have : ({ s with risesDue := [] } : State) = s := by cases s; simp at h1; simp [h1]
  rw [this, e2]

theorem Table.find_map {α β} (m : Table α) (f : α → β) (n : Nat) : Table.find (m.map fun e => (e.1, f e.2)) n = (m.find n).map f := by
  induction m with
  | nil => rfl
  | cons e r ih => obtain ⟨k, v⟩ := e; simp only [List.map_cons, Table.find]; split <;> simp [ih]


/-- What a filter that keeps what it was given leaves stands in the same order. -/
theorem filterMap_sublist {α β} (f : α → Option β) (g : β → α) (h : ∀ a b, f a = some b → g b = a) (l : List α) :
    ((l.filterMap f).map g).Sublist l := by
  induction l with
  | nil => simp
  | cons a r ih =>
    rw [List.filterMap_cons]
    split
    · exact ih.cons _
    · rename_i b hb; rw [List.map_cons, h _ _ hb]; exact ih.cons_cons _

end Sys2Proof.Machine
end

