-- ==== Sys2Proof/Tests/Slice0.lean ====
section
/-! SUPPORT. Tests/Slice0.lean: the well-formedness checks, the manual's worked examples one command at a time, and for every statement
with hypotheses a state and operands that meet them. Expected results are the manual's own figures or worked by hand from its
rules. -/

namespace Sys2Proof.Tests

set_option Elab.async false

open Sys2Proof.Machine

/-! ### Well-formedness: each check refuses a term that is ill formed in that one field -/

def filler (n : Nat) : List Byte := List.replicate n 0

def entries (n : Nat) : List SplitEntry := List.replicate n ⟨127, 4095⟩

def lanes (rate window : Nat) : Vector (Nat × Nat) 4 := #v[(0, 0), (0, 0), (0, 0), (rate, window)]

/-- Each ill formed in one field. -/
def illTabs : List Instr :=
  [
    .openTab 33 255 (filler 16), .openTab 32 256 (filler 16), .openTab 32 255 (filler 17), .addLine 33 65535 65535
    65535 255 [1, 2, 3, 65535], .addLine 32 65536 65535 65535 255 [1, 2, 3, 65535], .addLine 32 65535 65536 65535 255
    [1, 2, 3, 65535], .addLine 32 65535 65535 65536 255 [1, 2, 3, 65535], .addLine 32 65535 65535 65535 256 [1, 2, 3,
    65535], .addLine 32 65535 65535 65535 255 [1, 2, 3, 4, 5], .addLine 32 65535 65535 65535 255 [65536], .voidLine 33
    65535 65535 255, .voidLine 32 65536 65535 255, .voidLine 32 65535 65536 255, .voidLine 32 65535 65535 256,
    .setLabel 33 65535 65535 (filler 16), .setLabel 32 65536 65535 (filler 16), .setLabel 32 65535 65536 (filler 16),
    .setLabel 32 65535 65535 (filler 17), .setService 33 65535 65535 65535, .setService 32 65536 65535 65535,
    .setService 32 65535 65536 65535, .setService 32 65535 65535 65536, .closeEmpty 33 65535 65535, .closeEmpty 32
    65536 65535, .closeEmpty 32 65535 65536, .mergeTabs 33 65535 65535 65535 65535, .mergeTabs 32 65536 65535 65535
    65535, .mergeTabs 32 65535 65536 65535 65535, .mergeTabs 32 65535 65535 65536 65535, .mergeTabs 32 65535 65535
    65535 65536, .findTab 33 1 9999 (filler 1), .findTab 32 256 0 (filler 1), .findTab 32 0 65536 (filler 1), .findTab
    32 0 0 (filler 17), .findTab 32 1 0 (filler 2), .readTab 33 65535 255, .readTab 32 65536 255, .readTab 32 65535
    256]

/-- Each ill formed in one field. -/
def illKitchen : List Instr :=
  [
    .send 33 65535 false false, .send 32 65536 false false, .fire 33 65535, .fire 32 65536, .quote 33 65535, .quote 32
    65536, .bump 33 65535, .bump 32 65536, .recall 33, .markSoldOut 33 65535, .markSoldOut 32 65536, .redrawMe 33,
    .killTicket 33 65535, .killTicket 32 65536]

/-- Each ill formed in one field. -/
def illSettlement : List Instr :=
  [
    .split 33 65535 65535 255 (entries 20), .split 32 65536 65535 255 (entries 20), .split 32 65535 65536 255 (entries
    20), .split 32 65535 65535 256 (entries 20), .split 32 65535 65535 255 (entries 21), .split 32 65535 65535 255
    [⟨128, 1⟩], .assign 33 65535 65535 255 0, .assign 32 65536 65535 255 0, .assign 32 65535 65536 255 0, .assign 32
    65535 65535 256 0, .unsplit 33 65535 65535, .unsplit 32 65536 65535, .unsplit 32 65535 65536, .tenderBegin 33
    65535 255, .tenderBegin 32 65536 255, .tenderBegin 32 65535 256, .tenderCommit 33 65535 255 255 4294967295
    16777215, .tenderCommit 32 65536 255 255 4294967295 16777215, .tenderCommit 32 65535 256 255 4294967295 16777215,
    .tenderCommit 32 65535 255 256 4294967295 16777215, .tenderCommit 32 65535 255 255 4294967296 16777215,
    .tenderCommit 32 65535 255 255 4294967295 16777216, .tenderCancel 33 65535 255, .tenderCancel 32 65536 255,
    .tenderCancel 32 65535 256, .writeOff 33 65535, .writeOff 32 65536, .readDrawer 33 255, .readDrawer 32 256,
    .closeDrawer 33 255, .closeDrawer 32 256]

/-- Each ill formed in one field. -/
def illMenu : List Instr :=
  [
    .loadItem 33 65535 255 (filler 16) 16777215 255 255 65535 255 65535, .loadItem 32 65536 255 (filler 16) 16777215
    255 255 65535 255 65535, .loadItem 32 65535 256 (filler 16) 16777215 255 255 65535 255 65535, .loadItem 32 65535
    255 (filler 15) 16777215 255 255 65535 255 65535, .loadItem 32 65535 255 (filler 16) 16777216 255 255 65535 255
    65535, .loadItem 32 65535 255 (filler 16) 16777215 256 255 65535 255 65535, .loadItem 32 65535 255 (filler 16)
    16777215 255 256 65535 255 65535, .loadItem 32 65535 255 (filler 16) 16777215 255 255 65536 255 65535, .loadItem
    32 65535 255 (filler 16) 16777215 255 255 65535 256 65535, .loadItem 32 65535 255 (filler 16) 16777215 255 255
    65535 255 65536, .setPrice 33 65535 16777215, .setPrice 32 65536 16777215, .setPrice 32 65535 16777216, .setStock
    33 65535 (some 65534), .setStock 32 65536 (some 65534), .setStock 32 65535 (some 65535), .loadTax 33 255 65535,
    .loadTax 32 256 65535, .loadTax 32 255 65536]

/-- Each ill formed in one field. -/
def illControl : List Instr :=
  [
    .loadStation 33 255 255 255 255 255 65535 65535, .loadStation 32 256 255 255 255 255 65535 65535, .loadStation 32
    255 256 255 255 255 65535 65535, .loadStation 32 255 255 256 255 255 65535 65535, .loadStation 32 255 255 255 256
    255 65535 65535, .loadStation 32 255 255 255 255 256 65535 65535, .loadStation 32 255 255 255 255 255 65536 65535,
    .loadStation 32 255 255 255 255 255 65535 65536, .setConfig 33 65535 (lanes 255 255), .setConfig 32 65536 (lanes
    255 255), .setConfig 32 65535 (lanes 256 0), .setConfig 32 65535 (lanes 0 256), .setLaneRole 33 255 255,
    .setLaneRole 32 256 255, .setLaneRole 32 255 256, .laneRestart 33 255, .laneRestart 32 256, .setPeriod 33 255,
    .setPeriod 32 256, .endDay 33, .readAlert 33, .readConfig 33]

/-- Each ill formed in one field. -/
def illEvents : List Instr :=
  [
    .holdExpiry 65536 255, .holdExpiry 65535 256, .recallWindowExpiry 256, .overdueRise 65536]

/-- The same commands with every field at the end of its width. -/
def wellSpelled : List Instr :=
  [
    .openTab 32 255 (filler 16), .addLine 32 65535 65535 65535 255 [1, 2, 3, 65535], .voidLine 32 65535 65535 255,
    .setLabel 32 65535 65535 (filler 16), .setService 32 65535 65535 65535, .closeEmpty 32 65535 65535, .mergeTabs 32
    65535 65535 65535 65535, .findTab 32 1 9999 (filler 1), .readTab 32 65535 255, .send 32 65535 false false, .fire
    32 65535, .quote 32 65535, .bump 32 65535, .recall 32, .markSoldOut 32 65535, .redrawMe 32, .killTicket 32 65535,
    .split 32 65535 65535 255 (entries 20), .assign 32 65535 65535 255 0, .unsplit 32 65535 65535, .tenderBegin 32
    65535 255, .tenderCommit 32 65535 255 255 4294967295 16777215, .tenderCancel 32 65535 255, .writeOff 32 65535,
    .readDrawer 32 255, .closeDrawer 32 255, .loadItem 32 65535 255 (filler 16) 16777215 255 255 65535 255 65535,
    .setPrice 32 65535 16777215, .setStock 32 65535 (some 65534), .loadTax 32 255 65535, .loadStation 32 255 255 255
    255 255 65535 65535, .setConfig 32 65535 (lanes 255 255), .setLaneRole 32 255 255, .laneRestart 32 255, .setPeriod
    32 255, .endDay 32, .readAlert 32, .readConfig 32, .holdExpiry 65535 255, .recallWindowExpiry 255, .overdueRise
    65535]

theorem test_wellFormed_refuses_tabs : illTabs.all (fun i => !WellFormed i) = true := by decide +kernel

theorem test_wellFormed_refuses_kitchen : illKitchen.all (fun i => !WellFormed i) = true := by decide +kernel

theorem test_wellFormed_refuses_settlement : illSettlement.all (fun i => !WellFormed i) = true := by decide +kernel

theorem test_wellFormed_refuses_menu : illMenu.all (fun i => !WellFormed i) = true := by decide +kernel

theorem test_wellFormed_refuses_control : illControl.all (fun i => !WellFormed i) = true := by decide +kernel

theorem test_wellFormed_refuses_events : illEvents.all (fun i => !WellFormed i) = true := by decide +kernel

theorem test_wellFormed_accepts : wellSpelled.all WellFormed = true := by decide +kernel

/-! ### Small states -/

/-- The bytes of an ASCII text. -/
def text (cs : List Nat) : List Byte := cs.map (BitVec.ofNat 8)

/-- "ROW 14". -/
def row14 : List Byte := text [0x52, 0x4F, 0x57, 0x20, 0x31, 0x34]

/-- A drop that answers its polls. -/
def here : Drop := { Drop.cold with present := true, misses := 0 }

/-- An item of the examples, with no low mark. -/
def item (kind : ItemKind) (price cls : Nat) (route : Option Nat) (prep : Nat) (stock : Option Nat) : Item :=
  { kind := kind, name := text [0x41], price := price, cls := cls, route := route, prep := prep, restricted := false,
    stock := stock, lowMark := 0 }

/-- The concourse of chapter 3's example: SERVICE, tax classes 1 at 500 and 2 at 1,000, tills 5, 6, 12 and stations 26 to 29
PRESENT, the counter at 212, the menu of the example. -/
def concourse : State :=
  let s := { State.cold true with
    period := .service, clock := 4000, tabCounter := 212,
    taxRates := #v[0, 500, 1000, 0, 0, 0, 0, 0],
    items := [(7, item .plain 550 2 (some 28) 60 none), (41, item .plain 650 1 (some 27) 300 (some 10)),
      (55, item .plain 300 1 (some 26) 240 none), (201, item .modifier 80 1 none 30 (some 20))] }
  [5, 6, 12, 26, 27, 28, 29].foldl (fun s d => s.setDrop d here) s

/-- A line of the examples. -/
def line (index item qty unit cls : Nat) (stage : Stage) (ticket : Option Nat) (shares : BitVec 12) : Line :=
  { index := index, item := item, qty := qty, mods := [], unitPrice := unit, cls := cls, voided := false, stage := stage,
    ticket := ticket, shares := shares }

/-- Chapter 3's tab 212 after its step 4: two lagers, and a pie with gravy. -/
def tab212 : Tab :=
  { Tab.fresh .running 5 row14 with
    revision := 2, nextIndex := 3,
    lines := [line 1 7 2 550 2 .unsent none 0, { line 2 41 1 730 1 .unsent none 0 with mods := [201] }],
    totals := ⟨1830, [0, 37, 110, 0, 0, 0, 0, 0], 0, 1977⟩ }

/-- The concourse with tab 212. -/
def open212 : State := { concourse.setTab 212 tab212 with tabCounter := 213 }

/-- The answer placed for a sender after a command, if it reached a next state. -/
def answerOf (i : Instr) (src : Nat) (s : State) : Option Reply :=
  match exec i s with
  | .next t => (t.answerTo src).map Result.reply
  | _ => none

/-- A test of the state after a command. -/
def after (i : Instr) (s : State) (p : State → Bool) : Bool :=
  match exec i s with
  | .next t => p t
  | _ => false

/-! ### Chapter 3: two tills on one tab -/

theorem test_openTab_takes_counter : answerOf (.openTab 5 0 row14) 5 concourse = some (okWith [u16 212, u16 0]) := by decide +kernel

/-- Step 6: fries at revision 2 give revision 3, line 3, total 2,607. -/
theorem test_addLine_total : answerOf (.addLine 6 212 2 55 2 []) 6 open212 = some (okWith [u16 3, u8 3, u32 2607]) := by decide +kernel

/-- Step 5: an older revision is STALE and carries the tab's. -/
theorem test_addLine_stale : answerOf (.addLine 6 212 1 55 2 []) 6 open212 = some (refuse .stale [u16 2]) := by decide +kernel

/-- Step 10: the void of the pie gives its units back and clears its tax. -/
theorem test_voidLine_restores :
    after (.voidLine 5 212 2 2) open212 (fun t => decide ((t.item 41).bind Item.stock = some 11) &&
      decide ((t.item 201).bind Item.stock = some 21) && decide ((t.tab 212).map (fun x => x.totals.total) = some 1210)) = true := by
  decide +kernel

/-- Chapter 2, step 2: gravy asked for six times over is short; nothing is reserved. -/
theorem test_addLine_sold_out :
    answerOf (.addLine 12 212 2 41 3 [201, 201]) 12 { open212 with items := open212.items.edit 201 fun i => { i with stock := some 2 } } =
      some (refuse .soldOut [u16 201]) := by decide +kernel

/-- Chapter 2, step 4: the mark answers the count before it. -/
theorem test_markSoldOut_answer :
    answerOf (.markSoldOut 27 201) 27 { concourse with items := concourse.items.edit 201 fun i => { i with stock := some 2 } } =
      some (okWith [u16 2]) := by decide +kernel

/-- Step 11: 12.5 % of 2,250 is 281 (the lines of that step: two lagers and one, two fries, a voided pie). -/
theorem test_totals_service :
    totalsOf concourse.taxRate 1250
      [line 1 7 2 550 2 .unsent none 0, { line 2 41 1 730 1 .unsent none 0 with voided := true }, line 3 55 2 300 1 .unsent none 0,
        line 4 7 1 550 2 .unsent none 0] = ⟨2250, [0, 30, 165, 0, 0, 0, 0, 0], 281, 2726⟩ := by decide +kernel

/-! ### Chapter 7: three shares, two classes -/

/-- The rates of chapter 7's example. -/
def rates7 (c : Nat) : Nat := if c = 1 then 875 else if c = 2 then 1025 else 0

/-- Its three lines, the burger's set given. -/
def lines7 (burger : BitVec 12) : List Line :=
  [line 1 60 2 650 1 .ready (some 348) 7, line 2 61 1 1345 1 .ready (some 348) burger, line 3 62 3 1250 2 .sent (some 350) 7]

/-- The share totals of a split into three. -/
def totals3 (lines : List Line) (rate : Nat → Nat) (service : Nat) : List Nat :=
  (splitShares rate service (totalsOf rate service lines) 3 lines).map Share.total

theorem test_split_three_shares : totals3 (lines7 3) rates7 500 = [2699, 2698, 1933] := by decide +kernel

theorem test_split_after_assign : totals3 (lines7 7) rates7 500 = [2444, 2444, 2442] := by decide +kernel

theorem test_split_thousand_in_three : totals3 [line 1 70 1 1000 0 .none none 7] (fun _ => 0) 0 = [334, 333, 333] := by decide +kernel

/-- With the second bucket and 12.5 %: the cursor gives the second line's odd unit to share 2. -/
theorem test_split_cursor :
    totals3 [line 1 70 1 1000 0 .none none 7, line 2 70 1 1000 0 .none none 7] (fun _ => 0) 1250 = [751, 750, 749] := by decide +kernel

/-! ### Chapter 8: two tills pay one tab -/

/-- A share of a total and payment state. -/
def share (total : Nat) (pay : Pay) : Share := { goods := total, taxes := List.replicate 8 0, service := 0, total := total, pay := pay }

/-- Tab 212 in payment with the shares given. -/
def paying (kind : TabKind) (shares : List Share) : Tab :=
  { Tab.fresh kind 5 row14 with
    state := .settling, revision := 11, nextIndex := 4, lines := lines7 7, totals := ⟨6395, [0, 231, 384, 0, 0, 0, 0, 0], 320, 7330⟩,
    settlement := some shares }

/-- After step 3, at clock 4,090: share 1 HELD by till 5 and due to expire now, share 2 by till 6, share 3 UNPAID. -/
def held212 : State :=
  (({ concourse with clock := 4090 }.setTab 212 (paying .running [share 2444 (.held 5 4090), share 2444 (.held 6 4096), share 2442 .unpaid])).setHold
    5 (some ⟨212, 1⟩)).setHold 6 (some ⟨212, 2⟩)

/-- Before step 10: shares 1 and 2 PAID, share 3 HELD by till 5. -/
def last212 (kind : TabKind) : State :=
  ((concourse.setTab 212 (paying kind
    [share 2444 (.paid .cash 3000 0 556 0 5), share 2444 (.paid .card 2644 200 0 0 6), share 2442 (.held 5 4110)])).setHold 5 (some ⟨212, 3⟩))

/-- Step 2: another till's share is HELD-ELSEWHERE, naming it. -/
theorem test_tenderBegin_held_elsewhere :
    answerOf (.tenderBegin 6 212 1) 6 held212 = some (refuse .heldElsewhere [u8 5]) := by decide +kernel

/-- Step 4: CASH of 3,000 for 2,444 gives 556 change and leaves two shares. -/
theorem test_commit_cash :
    answerOf (.tenderCommit 5 212 1 0 3000 0) 5 held212 = some (okWith [u8 1, u32 2444, u32 556, u32 0, u8 1, u8 2]) := by decide +kernel

/-- Step 9: CARD must be the total and the tip exactly. -/
theorem test_commit_card_exact : answerOf (.tenderCommit 6 212 2 1 2643 200) 6 held212 = some (refuse .amount [u32 2644]) := by decide +kernel

/-- Step 10: the VOUCHER's excess is 58 and the tab is SETTLED. -/
theorem test_commit_last_share :
    answerOf (.tenderCommit 5 212 3 2 2500 0) 5 (last212 .running) = some (okWith [u8 3, u32 2442, u32 0, u32 58, u8 2, u8 0]) := by
  decide +kernel

theorem test_commit_paid_figures :
    figuresOf [share 2444 (.paid .cash 3000 0 556 0 5), share 2444 (.paid .card 2644 200 0 0 6), share 2442 (.paid .voucher 2500 0 0 58 5)] =
      (7330, 200) := by decide +kernel

/-- Step 6: the expiry frees the share and tells the till. -/
theorem test_holdExpiry_notice :
    after (.holdExpiry 212 1) held212 (fun t => decide (t.hold 5 = none) && decide ((t.drop 5).notices = [.holdLapsed 212 1])) = true := by
  decide +kernel

/-- The write-off at close-out: tab 633 of two UNSENT lines. -/
def closing : State :=
  let tab : Tab := { Tab.fresh .payFirst 5 [] with
    revision := 2, nextIndex := 3, lines := [line 1 41 1 650 1 .unsent none 0, line 2 7 1 550 2 .unsent none 0], totals := ⟨1200, [], 450, 1650⟩ }
  { concourse.setTab 633 tab with
    period := .closeOut, writeOffTotal := 4200, items := concourse.items.edit 41 fun i => { i with stock := some 12 } }

theorem test_writeOff_answer :
    answerOf (.writeOff 0 633) 0 closing = some (okWith [u16 633, u32 1650, u8 1, u8 0, u8 2, u32 5850]) := by decide +kernel

theorem test_writeOff_retires :
    after (.writeOff 0 633) closing (fun t => decide (t.tab 633 = none) && decide ((t.item 41).bind Item.stock = some 13)) = true := by
  decide +kernel

/-! ### Chapters 5 and 6: the kitchen -/

/-- A ticket fired and shown at clock values. -/
def ticket (station tab : Nat) (refs : List Nat) (state : TicketState) (fired : Option Nat) (seq : Nat) (shown : Option Nat) : Ticket :=
  { station := station, original := none, tab := tab, refs := refs.map fun i => ⟨i, false⟩, state := state, rush := false, fired := fired,
    fireSeq := seq, firstShown := shown, front := false, target := 240, age := 239, level := 0 }

/-- The half-time send of chapter 5: stations 26, 28 (ABSENT) and 29, and tab 410's four lines. -/
def halfTime : State :=
  let tab : Tab := { Tab.fresh .running 5 [] with
    nextIndex := 5,
    lines := [line 1 55 2 300 1 .unsent none 0, line 2 7 4 550 2 .unsent none 0, line 3 55 1 300 1 .unsent none 0, line 4 60 1 400 1 .unsent none 0] }
  let s := { concourse.setTab 410 tab with
    clock := 2700, ticketCounter := 303, items := concourse.items.put 60 (item .plain 400 1 (some 20) 300 none),
    tickets := [(301, ticket 26 380 [1] .live (some 2610) 0 (some 2645)), (302, ticket 26 398 [2] .live (some 2655) 1 (some 2655))], fireCount := 2 }
  let s := s.setStation 26 { Station.cold with depth := 2, limit := 3, p16 := 3200, live := [301, 302] }
  let s := s.setStation 28 { Station.cold with fallback := some 29, p16 := 960 }
  (s.setStation 29 { Station.cold with crew := 2, p16 := 1440 }).setDrop 28 .cold

theorem test_send_half_time : answerOf (.send 5 410 false false) 5 halfTime = some (okWith [u8 2, u8 1, u16 800]) := by decide +kernel

theorem test_send_tickets :
    after (.send 5 410 false false) halfTime (fun t =>
      decide ((t.ticket 303).map (fun k => (k.station, k.original, k.refs.map LineRef.index)) = some (26, none, [1, 3])) &&
      decide ((t.ticket 304).map (fun k => (k.station, k.original, k.refs.map LineRef.index)) = some (29, some 28, [2])) &&
      decide ((t.station 26).live = [301, 302, 303]) && decide (t.alerts = [⟨.routeLost, 60, 2700⟩])) = true := by decide +kernel

theorem test_smoothed_prep : (smoothed 4800 180, smoothed 4800 195) = (4560, 4590) := by decide +kernel

/-- Five tickets and crew 2 at P16 4,560: 855 s; crew 1: 1,710 s; P16 4,590: 861 s. -/
theorem test_quotes :
    ([(2, 4560), (1, 4560), (2, 4590)].map fun x =>
      (concourse.setStation 27 { Station.cold with crew := x.1, p16 := x.2, live := [1, 2, 3], waiting := [4, 5] }).quoteOf 27) = [855, 1710, 861] := by
  decide +kernel

/-- A fryer at its load limit: 303, 306 and 307 LIVE, 305 the last bumped (chapter 6). -/
def fryer : State :=
  let tab : Tab := { Tab.fresh .running 5 [] with
    nextIndex := 5,
    lines := [line 1 55 1 300 1 .ready (some 305) 0, line 2 55 1 300 1 .sent (some 303) 0, line 3 55 1 300 1 .sent (some 306) 0,
      line 4 55 1 300 1 .sent (some 307) 0] }
  let s := { concourse.setTab 212 tab with
    clock := 2920, ticketCounter := 308, fireCount := 4,
    tickets := [(303, ticket 26 212 [2] .live (some 2700) 1 (some 2700)), (305, ticket 26 212 [1] .bumped (some 2650) 0 (some 2650)),
      (306, ticket 26 212 [3] .live (some 2750) 2 (some 2900)), (307, ticket 26 212 [4] .live (some 2800) 3 none)] }
  s.setStation 26 { Station.cold with depth := 2, limit := 3, lastBumped := some ⟨305, 2960⟩, live := [303, 306, 307] }

theorem test_recall_at_load_limit :
    after (.recall 26) fryer (fun t => decide ((t.station 26).live = [305, 303, 306]) && decide ((t.station 26).waiting = [307]) &&
      decide ((t.drop 26).messages.map (fun m => match m with | .clear n => n | .show b => b.ticket | _ => 0) = [306, 305]) &&
      decide ((t.ticket 305).bind Ticket.firstShown = some 2920)) = true := by decide +kernel

theorem test_bump_answer : answerOf (.bump 26 303) 26 fryer = some (okWith [u16 303, u16 212, u8 1, u16 220]) := by decide +kernel

/-! ### Chapters 4 and 10 -/

/-- The tabs of chapter 4's label search. -/
def rows : State :=
  let tab (l : List Nat) : Tab := Tab.fresh .running 5 (text l)
  { concourse with tabs :=
    [(14, tab [0x52, 0x4F, 0x57, 0x20, 0x31]), (57, tab [0x52, 0x4F, 0x57, 0x20, 0x31, 0x32]), (118, tab [0x52, 0x4F, 0x57, 0x20, 0x31, 0x30, 0x41]),
      (200, tab [0x72, 0x6F, 0x77, 0x20, 0x31, 0x38]), (201, tab [0x52, 0x4F, 0x57]), (212, Tab.fresh .running 5 row14),
      (240, tab [0x52, 0x4F, 0x57, 0x20, 0x31, 0x39]), (301, tab [0x52, 0x4F, 0x57, 0x20, 0x31, 0x35]), (355, tab [0x52, 0x4F, 0x57, 0x20, 0x31, 0x31]),
      (402, tab [0x52, 0x4F, 0x57, 0x20, 0x31, 0x33]), (417, tab [0x52, 0x4F, 0x57, 0x20, 0x31, 0x36])] }

/-- The first call lists eight, with MORE. -/
theorem test_findTab_first_call :
    answerOf (.findTab 4 0 0 (text [0x52, 0x4F, 0x57, 0x20, 0x31])) 4 rows = some
      ⟨.ok, 4, [14, 57, 118, 212, 240, 301, 355, 402].flatMap fun n => [u16 n, u8 0]⟩ := by decide +kernel

/-- A page above 0 of a tab edited since page 0 is RENEWED (mark bit 5). -/
theorem test_readTab_renewed :
    (answerOf (.readTab 6 212 1) 6 (open212.setView 6 (some ⟨212, 1⟩))).map Reply.marks = some (1 + 4) := by decide +kernel

/-- The oldest entry, the marker set, 31 left. -/
theorem test_readAlert_full :
    answerOf (.readAlert 0) 0
      { concourse with alerts := ⟨.lowStock, 41, 2650⟩ :: (List.range 31).map (fun i => ⟨.overdue, i, 2700⟩), alertsFull := true } = some
      ⟨.ok, 4, [u8 0, u16 41, u32 2650, u8 31]⟩ := by decide +kernel

/-! ### Chapter 11: frames -/

/-- The check of three zero bytes, worked from the polynomial by hand: CC9Ch. -/
theorem test_empty_frame : frameBytes 0 0 [] = [0x00, 0x00, 0x00, 0xCC, 0x9C] := by decide +kernel

/-- FIRE of tab 212: kind 09h, two bytes, check 07E2h. -/
theorem test_fire_frame : frameBytes 0 9 [0x00, 0xD4] = [0x00, 0x09, 0x02, 0x00, 0xD4, 0x07, 0xE2] := by decide +kernel

/-- D4h = 11010100b with its mark clear: start low, the data bits least significant first, the mark, stop high; and the mark
stands on a frame's first character alone. -/
theorem test_sent_characters :
    SentChar.levels ⟨0xD4, false⟩ = [false, false, false, true, false, true, false, true, true, false, true] ∧
      (sentFrame (frameBytes 8 0 [])).map SentChar.mark = [true, false, false, false, false] ∧
      linkBits 0xD4 = [true, true, false, true, false, true, false, false] := by decide +kernel

/-- Three SPLIT entries in eight bytes: line 2 set 003h, line 3 set 007h, then line 127 set FFFh alone. -/
theorem test_split_entries :
    decodeRequest 5 .split [0, 212, 0, 9, 3, 0x02, 0x00, 0x30, 0x30, 0x07, 0x7F, 0xFF, 0xF0] =
      some (.split 5 212 9 3 [⟨2, 3⟩, ⟨3, 7⟩, ⟨127, 4095⟩]) := by decide +kernel

/-- A frame of a tender with a byte missing is not well-formed (R192). -/
theorem test_short_payload : decodeRequest 5 .tenderCommit [0, 212, 1, 0, 0, 0, 11, 184, 0, 0] = none := by decide +kernel

/-- SET-STOCK's FFFFh is UNTRACKED (R191). -/
theorem test_stock_untracked : decodeRequest 0 .setStock [0, 41, 0xFF, 0xFF] = some (.setStock 0 41 none) := by decide +kernel

/-! ### Witnesses: for each statement with hypotheses, values that meet them, a boundary for each clause -/

/-- The part held in reset. -/
def inReset : State := { concourse with mode := .held, resetPinLow := true }

/-- A lane in the answer window of a poll of the address given, in the pass given. -/
def awaiting (l : Fin 4) (address pass : Nat) (s : State) : State :=
  s.setLane l { s.lane l with phase := .awaiting 8, position := address, passCount := pass }

/-- A lane ready to poll the address given, in the pass given. -/
def ready (l : Fin 4) (address pass : Nat) (s : State) : State :=
  s.setLane l { s.lane l with phase := .ready, position := address, passCount := pass }

/-- A frame as the characters of an answer, each `gap` ns after the one before it and the first `delay` ns after the poll. -/
def chars (delay gap : Nat) : List Byte → List LaneChar
  | [] => []
  | b :: rest => ⟨delay, b, true, true⟩ :: rest.map fun c => ⟨gap, c, false, true⟩

theorem witness_StepRunsFrontCommand :
    ({ concourse with pending := [.readConfig 0] } : State).pending = [.readConfig 0] ∧ concourse.pending = [] := by decide +kernel

/-- A till that sends READ-CONFIG, no sender at all, and an ADD-LINE in CLOSE-OUT. -/
theorem witness_TurnedAwayRequestChangesNothing :
    (kindOf (.readConfig 5) = some .readConfig ∧ sourceOf (.readConfig 5) = some 5 ∧ concourse.mode = .operating ∧
      concourse.mayAsk .readConfig 5 = false ∧ concourse.mayAsk .findTab 33 = false) ∧
    (kindOf (.addLine 32 1 0 7 1 []) = some .addLine ∧ sourceOf (.addLine 32 1 0 7 1 []) = some 32 ∧
      (State.cold false).mayAsk .addLine 16 = true ∧ gateOpen .addLine .closeOut = false) := by decide +kernel

theorem witness_SilentOutsideOperation :
    inReset.mode ≠ .operating ∧ (∀ c, Instr.secondsTick ≠ .resetHold c) ∧ (∀ c b, Instr.secondsTick ≠ .resetRelease c b) ∧
      Instr.secondsTick ≠ .settleEnd ∧ (∀ us, Instr.secondsTick ≠ .chipSelectFall us) ∧ ∀ bs, Instr.secondsTick ≠ .chipSelectRise bs := by
  refine ⟨by decide, ?_, ?_, ?_, ?_, ?_⟩ <;> intros <;> exact Instr.noConfusion

/-- A SPLIT of twenty entries, a LOAD-ITEM, a FIND-TAB by till and a request of no bytes. -/
theorem witness_RequestFramesRoundTrip :
    ([.split 32 65535 65535 255 (entries 20), .loadItem 0 511 2 (filler 16) 99999 7 32 1800 1 9999, .findTab 1 1 9999 (filler 1), .recall 27] :
      List Instr).all (fun i => WellFormed i && (sourceOf i).isSome && (encodeRequest i).isSome) = true := by decide +kernel

/-- A kind that is none, EMPTY's kind with a byte, and a FIRE with the longest payload a frame holds. -/
theorem badForms : BadForm 255 [] ∧ BadForm 0 [0] ∧ BadForm 9 (filler 64) := by
  refine ⟨⟨.inl (by decide), ?_⟩, ⟨.inr (by decide), ?_⟩, ⟨.inl (by decide), ?_⟩⟩
  · intro k h
    have h0 : ReqKind.ofCode 255 = none := by decide
    rw [h0] at h
    cases h
  · intro k h
    have h0 : ReqKind.ofCode 0 = none := by decide
    rw [h0] at h
    cases h
  · intro k h
    have h0 : ReqKind.ofCode 9 = some .fire := by decide
    rw [h0] at h
    cases h
    decide

theorem witness_LinkFrameRunsItsRequest :
    WellFormed (.setPrice 0 511 99999) = true ∧ sourceOf (.setPrice 0 511 99999) = some 0 ∧
      encodeRequest (.setPrice 0 511 99999) = some (.setPrice, [1, 255, 1, 0x86, 0x9F]) ∧
      ({ concourse with transfer := .active none } : State).transfer = .active none := by decide +kernel

/-- Till 8, at the last address of lane A, its first character at the very end of the window and the rest 190,972 ns apart: a FIRE,
and frames of a bad form. -/
theorem witness_LaneFrameRunsItsRequest :
    let s := awaiting 0 8 15 concourse
    let cs := chars 8000000 190972 (frameBytes 0 9 [0x00, 0xD4])
    (WellFormed (.fire 8 212) = true ∧ sourceOf (.fire 8 212) = some (s.polled 0) ∧ encodeRequest (.fire 8 212) = some (.fire, [0x00, 0xD4])) ∧
      (s.mode = .operating ∧ (s.lane 0).phase = .awaiting 8) ∧ cs.map LaneChar.data = frameBytes 0 9 [0x00, 0xD4] ∧
      cs.head? = some ⟨8000000, 0, true, true⟩ ∧
      (∀ c ∈ cs.tail, c.mark = false ∧ c.stopHigh = true ∧ c.delayNs * (s.lane 0).rate.bps ≤ 22 * 1000000000) ∧
      (BadForm 255 [] ∧ BadForm 0 [0] ∧ BadForm 9 (filler 64) ∧ (filler 64).length ≤ 64 ∧
        (chars 8000000 190972 (frameBytes 0 255 [])).map LaneChar.data = frameBytes 0 255 [] ∧
        (chars 8000000 190972 (frameBytes 0 0 [0])).map LaneChar.data = frameBytes 0 0 [0] ∧
        (chars 8000000 190972 (frameBytes 0 9 (filler 64))).map LaneChar.data = frameBytes 0 9 (filler 64)) :=
  ⟨by decide +kernel, by decide +kernel, by decide +kernel, by decide +kernel, by decide +kernel,
    badForms.1, badForms.2.1, badForms.2.2, by decide, by decide +kernel, by decide +kernel, by decide +kernel⟩

/-- Each of the five ways an answer is bad, at the first value past its bound. -/
theorem witness_BadAnswerIsAMiss :
    let s := awaiting 0 1 0 concourse
    let good : LaneChar := ⟨1000, 0, false, true⟩
    (s.mode = .operating ∧ (s.lane 0).phase = .awaiting 8) ∧ 8 * 1000000 < (⟨8000001, 0, true, true⟩ : LaneChar).delayNs ∧
      64 < (⟨1000, 65, false, true⟩ : LaneChar).data.toNat ∧
      22 * 1000000000 < (⟨190973, 0, false, true⟩ : LaneChar).delayNs * (s.lane 0).rate.bps ∧
      [good.data, good.data] ≠ be 2 (check (([⟨1000, 0, true, true⟩, good, good] ++ ([] : List LaneChar)).map LaneChar.data)).toNat := by
  decide +kernel

/-- A ready lane at its first address in a pass of count 0 and at its last, PRESENT, in a pass of count 15; and a drop for each of the
five items. -/
theorem witness_PollCarriesOneItem :
    let s := ready 0 1 0 concourse
    let t := ready 0 8 15 (concourse.setDrop 8 { here with slot := some ⟨8, okWith []⟩ })
    let u := ready 3 3 1 (concourse.setDrop 27 { here with messages := [.redraw] })
    let v := ready 0 5 1 (concourse.setDrop 5 { here with notices := [.holdLapsed 1 1] })
    (s.mode = .operating ∧ (s.lane 0).phase = .ready ∧ (s.lane 0).position = 1 ∧ (s.lane 0).passCount = 0 ∧ (s.drop 1).slot = none ∧
      (s.lane 0).role = .till ∧ (s.drop 1).notices = []) ∧
    ((t.lane 0).phase = .ready ∧ (t.lane 0).position = 8 ∧ (t.drop (t.polled 0)).present = true ∧ (t.drop (t.polled 0)).slot = some ⟨8, okWith []⟩) ∧
    ((u.lane 3).role = .kitchen ∧ (u.drop (u.polled 3)).present = true ∧ (u.drop (u.polled 3)).messages = [.redraw]) ∧
    ((u.drop 28).present = true ∧ (u.drop 28).messages = []) ∧
    ((v.drop (v.polled 0)).present = true ∧ (v.drop (v.polled 0)).notices = [.holdLapsed 1 1]) := by decide +kernel

/-- Lane A from address 7 of the last pass before a pass of count 0: drops 7 and 8 are ABSENT. Lane C, with no drop PRESENT, skips
every pass up to the next of count 0; lane D goes on at station 26 in the next pass. -/
theorem witness_PassSkipsAbsentDrops :
    let s := ready 0 7 15 concourse
    (s.mode = .operating ∧ (s.lane 0).phase = .ready ∧ (s.lane 0).inRange = true) ∧
      after (.poll 0) s (fun t => decide ((t.lane 0).position = 1 ∧ (t.lane 0).passCount = 0)) = true ∧
      after (.poll 0) (ready 0 1 15 concourse) (fun t => decide ((t.lane 0).position = 5 ∧ (t.lane 0).passCount = 15)) = true ∧
      after (.poll 2) (ready 2 8 3 concourse) (fun t => decide ((t.lane 2).position = 1 ∧ (t.lane 2).passCount = 0)) = true ∧
      after (.poll 3) (ready 3 8 3 concourse) (fun t => decide ((t.lane 3).position = 2 ∧ (t.lane 3).passCount = 4)) = true := by
  decide +kernel

/-- A second miss and a third, at the last address of the pass of count 15. -/
theorem witness_MissCountsAndAbsents :
    let s := awaiting 3 8 15 (concourse.setDrop 32 { here with misses := 2 })
    let t := awaiting 0 1 0 (concourse.setDrop 1 { here with misses := 1 })
    (s.mode = .operating ∧ (s.lane 3).phase = .awaiting 8 ∧ (s.lane 3).position = 8 ∧ (s.drop (s.polled 3)).presenceOk = true ∧
      (s.drop (s.polled 3)).misses = 2) ∧
    ((t.lane 0).position = 1 ∧ (t.drop (t.polled 0)).presenceOk = true ∧ (t.drop (t.polled 0)).misses = 1) ∧
    (concourse.drop 32).presenceOk = true ∧ (concourse.drop 32).misses = 3 := by decide +kernel

/-- A station that returns at the last address of lane D, and a PRESENT till. -/
theorem witness_EmptyAnswerMakesPresent :
    let s := awaiting 3 8 0 concourse
    let cs := chars 8000000 190972 (frameBytes 0 0 [])
    (s.mode = .operating ∧ (s.lane 3).phase = .awaiting 8 ∧ (s.lane 3).position = 8 ∧ cs.map LaneChar.data = frameBytes 0 0 [] ∧
      (s.drop (s.polled 3)).present = false ∧ (s.lane 3).role = .kitchen) ∧
    ((awaiting 0 5 1 concourse).drop ((awaiting 0 5 1 concourse).polled 0)).present = true ∧
    cs.head? = some ⟨8000000, 0, true, true⟩ ∧
    (∀ c ∈ cs.tail, c.mark = false ∧ c.stopHigh = true ∧ c.delayNs * (s.lane 3).rate.bps ≤ 22 * 1000000000) := by decide +kernel

/-- A fall after 10 µs and one after 9; bytes that are short, of another address, too long, and too few for their length; a check
that does not match; frames of a bad form. -/
theorem witness_ChipSelectMovesFrames :
    (concourse.transfer = .none ∧ concourse.mode = .operating ∧ concourse.answerSlot = some .empty ∧ inReset.transfer = .none ∧ inReset.mode ≠ .operating) ∧
    (({ concourse with transfer := .active none } : State).transfer = .active none ∧ ([0, 0, 0, 0] : List Byte).length < 5 ∧
      ([1, 0, 0, 0, 0] : List Byte)[0]? ≠ some 0#8 ∧ ([0, 0, 65, 0, 0] : List Byte)[2]? = some 65#8 ∧ 64 < (65#8 : Byte).toNat ∧
      ([0, 0, 1, 0, 0] : List Byte)[2]? = some 1#8 ∧ ([0, 0, 1, 0, 0] : List Byte).length < (1#8 : Byte).toNat + 5) ∧
    ({ concourse with transfer := .ignored } : State).transfer = .ignored ∧
    ((filler 64).length = (64#8 : Byte).toNat ∧ ([0#8, 0#8] : List Byte) ≠ be 2 (check (0#8 :: 9#8 :: 64#8 :: filler 64)).toNat ∧
      BadForm 255 [] ∧ BadForm 0 [0] ∧ BadForm 9 (filler 64)) :=
  ⟨by decide +kernel, by decide +kernel, by decide +kernel, by decide, by decide +kernel, badForms⟩

theorem witness_ResetSequence :
    (inReset.mode = .held ∧ inReset.supplyNotGood = false ∧ inReset.resetPinLow = true) ∧
    (({ inReset with supplyNotGood := true, resetPinLow := false } : State).mode = .held ∧
      ({ inReset with supplyNotGood := true, resetPinLow := false } : State).supplyNotGood = true ∧
      ({ inReset with supplyNotGood := true, resetPinLow := false } : State).resetPinLow = false) ∧
    ({ inReset with mode := .settling } : State).mode = .settling := by decide +kernel

theorem fryer_ticketsOk : fryer.TicketsOk := by
  unfold State.TicketsOk
  decide +kernel

theorem station_out (s : State) (d : Nat) (h : 32 < d) : s.station d = .cold := by
  have h0 : ¬d ≤ 32 := by omega
  simp [State.station, isDrop, h0]

/-- A quantity over every station, from the thirty-two there are. -/
theorem every_station (s : State) (p : Nat → Station → Prop) (hc : ∀ d, p d .cold) (h : ∀ d, d < 33 → p d (s.station d)) (d : Nat) :
    p d (s.station d) := by
  by_cases hd : d < 33
  · exact h d hd
  · rw [station_out s d (by omega)]
    exact hc d

/-- The fryer with nothing due: ticket 303 at age 239 of a target of 240 makes its rise due at the next tick. -/
theorem witness_TickAdvancesClockAndAges :
    fryer.mode = .operating ∧ fryer.NothingDue ∧ 303 ∈ (fryer.station 26).live ∧ (fryer.ticket 303).map Ticket.state = some .live ∧
      (fryer.ticket 303).map (fun k => (k.target, k.age)) = some (240, 239) := by
  refine ⟨rfl, ⟨rfl, ?_, ?_⟩, by decide +kernel, by decide +kernel, by decide +kernel⟩
  · intro e he x hx till
    have h0 : ∀ e ∈ fryer.tabs, e.2.settlement.getD [] = [] := by decide +kernel
    rw [h0 e he] at hx
    cases hx
  · intro d
    refine every_station fryer (fun _ st => ∀ b, st.lastBumped = some b → b.expiry ≠ fryer.clock) ?_ ?_ d
    · intro d b h
      cases h
    · intro d hd b h
      have h0 : ∀ d < 33, (fryer.station d).lastBumped.all (fun b => b.expiry != fryer.clock) = true := by decide +kernel
      have h1 := h0 d hd
      rw [h] at h1
      simpa using h1

theorem witness_HoldExpiryFreesShare :
    held212.mode = .operating ∧ held212.tab 212 = some (paying .running [share 2444 (.held 5 4090), share 2444 (.held 6 4096), share 2442 .unpaid]) ∧
      (paying .running [share 2444 (.held 5 4090), share 2444 (.held 6 4096), share 2442 .unpaid]).share 1 = some (share 2444 (.held 5 4090)) ∧
      (share 2444 (.held 5 4090)).pay = .held 5 held212.clock ∧ 5 ≤ 32 := by decide +kernel

/-- A SETTLED tab whose last ticket's window ends now, and the same tab while another ticket of it is LIVE. -/
def windowEnd (other : TicketState) : State :=
  let tab : Tab := { Tab.fresh .running 5 [] with
    state := .settled, nextIndex := 3, lines := [line 1 55 1 300 1 .ready (some 305) 0, line 2 55 1 300 1 .ready (some 303) 0] }
  let s := { concourse.setTab 212 tab with
    tickets := [(303, ticket 26 212 [2] other (some 2700) 1 (some 2700)), (305, ticket 26 212 [1] .bumped (some 2650) 0 (some 2650))] }
  s.setStation 26 { Station.cold with lastBumped := some ⟨305, 4000⟩ }

theorem witness_RecallWindowEndRetires :
    (∀ other : TicketState, (windowEnd other).mode = .operating ∧ ((windowEnd other).station 26).lastBumped = some ⟨305, (windowEnd other).clock⟩ ∧
      (windowEnd other).ticket 305 = some (ticket 26 212 [1] .bumped (some 2650) 0 (some 2650)) ∧ ((windowEnd other).tabs.find 212).isSome = true) ∧
    after (.recallWindowExpiry 26) (windowEnd .killed) (fun t => decide (t.tab 212 = none)) = true ∧
    after (.recallWindowExpiry 26) (windowEnd .live) (fun t => decide (t.tab 212 ≠ none)) = true := by
  refine ⟨?_, by decide +kernel, by decide +kernel⟩
  intro other
  cases other <;> decide +kernel

/-- Of the rises left, that of ticket 305, BUMPED since, and one of another age are dropped; ticket 303's is taken with the queue
short of one place and with it full, whatever the interval has become. -/
theorem witness_OverdueRiseRaisesLevel :
    let s := { fryer.setStation 26 { fryer.station 26 with interval := 600 } with
      risesDue := [⟨305, 240⟩, ⟨303, 239⟩, ⟨303, 240⟩], tickets := fryer.tickets.edit 303 fun k => { k with age := 240 } }
    let t := s.setDrop 26 { here with messages := List.replicate 16 .redraw }
    let u := s.setDrop 26 { here with messages := List.replicate 15 .redraw }
    (s.mode = .operating ∧ s.risesDue.filter s.stillRises = [⟨303, 240⟩] ∧ (s.ticket 303).isSome = true ∧ 303 ∈ s.screen 26 ∧
      s.isStation 26 = true) ∧
    (u.risesDue.filter u.stillRises = [⟨303, 240⟩] ∧ (u.drop 26).messages.length < 16) ∧
    (t.risesDue.filter t.stillRises = [⟨303, 240⟩] ∧ ¬(t.drop 26).messages.length < 16) := by decide +kernel

/-- The rise of a full queue leaves the redraw: REDRAW, both tickets on the screen, and the LEVEL of the first. -/
theorem test_rise_redraws :
    after (.overdueRise 303)
      ({ fryer with risesDue := [⟨303, 239⟩] }.setDrop 26 { here with messages := List.replicate 16 .redraw })
      (fun t => decide ((t.drop 26).messages.length = 4) && decide ((t.drop 26).messages[2]? = some (.level 303 1)) &&
        decide (t.alerts = [⟨.overdue, 26, 2920⟩])) = true := by decide +kernel

/-- A name of the two ends of the printable characters. -/
def endsName : List Byte := (text [0x20, 0x7E] ++ filler 14).takeWhile (· != 0#8)

/-- The checks of a LOAD-ITEM's fields, with that name. -/
def loadable (item kind price cls route prep restricted : Nat) : Bool :=
  decide (1 ≤ item ∧ item ≤ 511) && decide (kind ≤ 2) && decide (endsName.length ≤ 16 ∧ ∀ b ∈ endsName, 0x20 ≤ b.toNat ∧ b.toNat ≤ 0x7E) &&
    decide (price ≤ 99999) && decide (cls ≤ 7) && decide (route ≤ 32) && decide (30 ≤ prep ∧ prep ≤ 1800) && decide (restricted ≤ 1)

/-- In PREP a record at the end of every range, a clearing, and three that are one past an end; and any in SERVICE. -/
theorem witness_LoadItemStoresRecord :
    (concourse.mode = .operating ∧ concourse.period ≠ .prep) ∧ ((State.cold true).mode = .operating ∧ (State.cold true).period = .prep) ∧
      loadable 511 2 99999 7 32 1800 1 = true ∧ loadable 1 0 0 0 0 30 0 = true ∧ loadable 512 1 0 0 0 30 0 = false ∧
      loadable 1 1 0 0 0 29 0 = false ∧ loadable 1 1 100000 0 0 30 0 = false := by decide +kernel

theorem witness_SetPriceChangesPriceAlone :
    concourse.mode = .operating ∧ concourse.item 512 = none ∧ concourse.item 7 = some (item .plain 550 2 (some 28) 60 none) ∧
      99999 < 100000 ∧ 99999 ≤ 99999 := by decide +kernel

theorem witness_SetStockWritesOutright :
    concourse.mode = .operating ∧ concourse.item 0 = none ∧ concourse.item 41 = some (item .plain 650 1 (some 27) 300 (some 10)) := by
  decide +kernel

theorem witness_LoadTaxStoresRate :
    (State.cold true).mode = .operating ∧ (State.cold true).period = .prep ∧ 7 < 8 ∧ 7 ≤ 7 := by decide +kernel

theorem witness_MarkSoldOutZeroesCount :
    concourse.admits .markSoldOut 27 = true ∧ concourse.item 8 = none ∧
      concourse.item 41 = some (item .plain 650 1 (some 27) 300 (some 10)) := by decide +kernel

/-- One slot left, the counter at 9,999 and a label of the two ends of the printable characters. -/
theorem witness_OpenTabTakesFreshNumber :
    let s := { concourse with tabs := (List.range' 1 1023).map fun n => (n, tab212), tabCounter := 9999 }
    s.admits .openTab 5 = true ∧ 1 ≤ 1 ∧ (∀ b ∈ text [0x20, 0x7E], 0x20 ≤ b.toNat ∧ b.toNat ≤ 0x7E) ∧ s.tabs.length < 1024 ∧
      (1 ≤ s.tabCounter ∧ s.tabCounter ≤ 9999) := by decide +kernel

/-- The second pie of chapter 2 at its limits: ten pies of a count of ten with two gravies each of a count of twenty, in LAST-CALL. -/
theorem witness_AddLineAppendsLine :
    let s := { open212 with period := .lastCall }
    s.admits .addLine 6 = true ∧ s.tab 212 = some tab212 ∧ tab212.state = .opened ∧ tab212.revision = 2 ∧
      s.item 41 = some (item .plain 650 1 (some 27) 300 (some 10)) ∧ (item .plain 650 1 (some 27) 300 (some 10)).kind = .plain ∧
      (∀ m ∈ [201, 201], ∃ im, s.item m = some im ∧ im.kind = .modifier ∧ (s.period = .lastCall → im.restricted = false)) ∧
      (s.period = .lastCall → (item .plain 650 1 (some 27) 300 (some 10)).restricted = false) ∧ (1 ≤ 10 ∧ 10 ≤ 99) ∧ tab212.nextIndex ≤ 64 ∧
      tab212.totals.goods + 10 * (650 + ([201, 201].map fun m => ((s.item m).map Item.price).getD 0).sum) ≤ 9999999 ∧ 0 < s.freeLines ∧
      (∀ x ∈ [41, 201, 201], ∀ i c, s.item x = some i → i.stock = some c → 10 * [41, 201, 201].count x ≤ c) := by
  refine ⟨by decide +kernel, by decide +kernel, rfl, rfl, by decide +kernel, rfl, ?_, fun _ => rfl, by decide, by decide, by decide +kernel,
    by decide +kernel, ?_⟩
  · intro m hm
    refine ⟨item .modifier 80 1 none 30 (some 20), ?_, rfl, fun _ => rfl⟩
    have h0 : ∀ m ∈ [201, 201], ({ open212 with period := .lastCall } : State).item m = some (item .modifier 80 1 none 30 (some 20)) := by
      decide +kernel
    exact h0 m hm
  · intro x hx i c hi hc
    have h0 : ∀ x ∈ [41, 201, 201], (({ open212 with period := .lastCall } : State).item x).any
        (fun i => i.stock.any fun c => decide (10 * [41, 201, 201].count x ≤ c)) = true := by decide +kernel
    have h1 := h0 x hx
    rw [hi] at h1
    simpa [hc] using h1

/-- Tab 212's two lines with 127 tabs of 64 lines and one of 62: no record is free. -/
def poolFull : State :=
  { open212 with tabs := (212, tab212) :: ((List.range' 213 127).map (fun n => (n, { tab212 with lines := List.replicate 64 (line 1 7 1 550 2 .none none 0) })) ++
    [(340, { tab212 with lines := List.replicate 62 (line 1 7 1 550 2 .none none 0) })]) }

/-- The pool at its end, and the numbers of its tabs rising. -/
theorem witness_AddLineAppendsLine_full :
    poolFull.freeLines = 0 ∧ poolFull.tab 212 = some tab212 ∧ poolFull.admits .addLine 6 = true ∧ poolFull.tabs.Rising ∧
      open212.tabs.Rising := by
  unfold Table.Rising
  decide +kernel

/-- Ten pies of ten and their two gravies each of twenty leave both counts at 0: LOW-STOCK then SOLD-OUT, item by item. -/
theorem test_addLine_alerts :
    after (.addLine 6 212 2 41 10 [201, 201]) open212 (fun t =>
      decide (t.alerts.map (fun a => (a.kind, a.subject)) = [(.lowStock, 41), (.soldOut, 41), (.lowStock, 201), (.soldOut, 201)])) = true := by
  decide +kernel

/-- With no record free the line is refused and POOL-LOW entered. -/
theorem test_addLine_full :
    answerOf (.addLine 6 212 2 55 1 []) 6 poolFull = some (refuse .full []) ∧
      after (.addLine 6 212 2 55 1 []) poolFull (fun t => decide (t.alerts = [⟨.poolLow, 0, 4000⟩])) = true := by decide +kernel

/-- A void of an UNSENT line, and one of the only line of a LIVE ticket. -/
theorem witness_VoidLineVoidsAndRestores :
    (open212.admits .voidLine 5 = true ∧ open212.tab 212 = some tab212 ∧ tab212.state = .opened ∧ tab212.revision = 2 ∧
      (tab212.activeLine 2).map Line.stage = some .unsent ∧ (tab212.activeLine 2).map Line.ticket = some none) ∧
    (fryer.admits .voidLine 5 = true ∧ ((fryer.tab 212).map fun t => (t.state, t.revision, t.activeLine 2)) =
      some (.opened, 0, some (line 2 55 1 300 1 .sent (some 303) 0)) ∧
      (fryer.ticket 303).map Ticket.tab = some 212 ∧ (fryer.ticket 303).map Ticket.state = some .live) ∧
    ((fryer.tab 212).bind fun t => (t.activeLine 1).map Line.stage) = some .ready := by decide +kernel

/-- A label of sixteen characters on an OPEN tab; a label on a tab in payment; a rate above the greatest. -/
theorem witness_LabelAndServiceEdits :
    (open212.tab 212 = some tab212 ∧ tab212.revision = 2 ∧ open212.admits .setLabel 6 = true ∧ open212.admits .setService 6 = true ∧
      tab212.state = .opened) ∧
    (held212.admits .setLabel 32 = false ∧ held212.admits .setLabel 24 = true ∧ (held212.tab 212).map Tab.state = some .settling) ∧
    (∀ b ∈ List.replicate 16 (0x7E#8), 0x20 ≤ b.toNat ∧ b.toNat ≤ 0x7E) := by decide +kernel

/-- Every edit of one tab, sent by till 6, of the tab and revision given. -/
def edits (tab rev : Nat) : List Instr :=
  [.addLine 6 tab rev 55 1 [], .voidLine 6 tab rev 1, .setLabel 6 tab rev row14, .setService 6 tab rev 1250, .closeEmpty 6 tab rev,
    .split 6 tab rev 2 [], .assign 6 tab rev 1 1, .unsplit 6 tab rev]

/-- Each edit with the kind, tab and revision the refusals take, admitted, for a tab number past the last and one that no tab has. -/
theorem witness_LabelAndServiceEdits_refused :
    ((edits 212 2).all fun i => (editOf i).any (fun e => (open212.admits e.1 6) && (e.2 == (212, 2))) && (sourceOf i == some 6)) = true ∧
      (open212.tab 10000 = none ∧ open212.tab 213 = none ∧ open212.tab 0 = none) ∧ tab212.revision ≠ 1 ∧
      ((edits 212 2).all fun i => (editOf i).any fun e => decide (tab212.state = .opened) || (e.1 == .assign)) = true := by decide +kernel

/-- A tab that takes SPLIT, not UNSPLIT; and one in payment with a share HELD, which takes SET-LABEL alone. -/
theorem witness_LabelAndServiceEdits_states :
    (tab212.TakesEdit .split ∧ ¬tab212.TakesEdit .unsplit ∧ ¬tab212.TakesEdit .assign) ∧
      (paying .running [share 2444 (.held 5 4090), share 2442 .unpaid]).TakesEdit .setLabel ∧
      ¬(paying .running [share 2444 (.held 5 4090), share 2442 .unpaid]).TakesEdit .split ∧
      ¬(paying .running [share 2444 (.held 5 4090), share 2442 .unpaid]).TakesEdit .addLine := by
  simp only [Tab.TakesEdit]
  decide +kernel

/-- A SPLIT of a tab in payment with shares HELD is BAD-STATE with the counts, whatever its revision. -/
theorem test_split_held : answerOf (.split 6 212 9 3 []) 6 held212 = some (refuse .badState [u8 1, u8 2, u8 0]) := by decide +kernel

theorem witness_CloseEmptyRemovesTab :
    let empty : Tab := { tab212 with lines := tab212.lines.map fun l => { l with voided := true } }
    ((concourse.setTab 9999 empty).admits .closeEmpty 5 = true ∧ (concourse.setTab 9999 empty).tab 9999 = some empty ∧ empty.state = .opened ∧
      empty.revision = 2 ∧ ∀ l ∈ empty.lines, l.voided = true) ∧
    (open212.tab 212 = some tab212 ∧ ∃ l ∈ tab212.lines, l.voided = false) := by decide +kernel

/-- Tab 230 of chapter 3's merge: pies SENT on ticket 88, a voided line, an UNSENT lager. -/
def tab230 : Tab :=
  { Tab.fresh .running 6 [] with
    revision := 7, nextIndex := 4,
    lines := [line 1 41 2 650 1 .sent (some 88) 0, { line 2 55 1 300 1 .sent (some 89) 0 with voided := true }, line 3 7 1 550 2 .unsent none 0],
    totals := ⟨1850, [0, 65, 55, 0, 0, 0, 0, 0], 0, 1970⟩ }

/-- The concourse with both tabs and tickets of tab 230 that name a moved line and one that names none. -/
def merging : State :=
  let s := { open212.setTab 230 tab230 with
    ticketCounter := 90, tickets := [(88, ticket 27 230 [1, 2] .live (some 3000) 0 (some 3000)), (89, ticket 26 230 [2] .killed (some 3000) 1 none)] }
  s.setStation 27 { Station.cold with live := [88] }

/-- A merge up to the last index there is: B's next line index is 63. -/
theorem witness_MergeMovesLinesAndTickets :
    let b : Tab := { tab212 with nextIndex := 63 }
    let s := merging.setTab 212 b
    s.admits .mergeTabs 6 = true ∧ 230 ≠ 212 ∧ s.tab 230 = some tab230 ∧ s.tab 212 = some b ∧ tab230.state = .opened ∧ b.state = .opened ∧
      tab230.revision = 7 ∧ b.revision = 2 ∧ (tab230.lines.filter fun l => !l.voided) ≠ [] ∧
      b.nextIndex + (tab230.lines.filter fun l => !l.voided).length ≤ 65 ∧ b.totals.goods + tab230.totals.goods ≤ 9999999 ∧ s.TicketsOk ∧
      (s.ticket 88).map Ticket.tab = some 230 ∧ (s.ticket 89).map Ticket.tab = some 230 := by
  unfold State.TicketsOk
  decide +kernel

/-- A merge of chapter 3: lines 5 and 6 come after B's, ticket 88 moves and ticket 89 is freed. -/
theorem test_merge_moves :
    after (.mergeTabs 6 230 7 212 2) merging (fun t => decide ((t.tab 212).map (fun x => x.lines.map Line.index) = some [1, 2, 3, 4]) &&
      decide (t.tab 230 = none) && decide (t.ticket 89 = none) &&
      decide ((t.ticket 88).map (fun k => (k.tab, k.refs)) = some (212, [⟨3, false⟩, ⟨0, true⟩]))) = true := by decide +kernel

theorem witness_FindTabListsMatches :
    (rows.admits .findTab 32 = true ∧ 9999 ≤ 9999) ∧ (0 = 0 ∧ (1 ≤ (List.replicate 16 (0x7E#8)).length ∧ (List.replicate 16 (0x7E#8)).length ≤ 16) ∧
      ∀ b ∈ List.replicate 16 (0x7E#8), 0x20 ≤ b.toNat ∧ b.toNat ≤ 0x7E) ∧ (1 = 1 ∧ unbe [32#8] ≤ 32) := by decide +kernel

/-- No such page; page 0 with no view; a page above 0 with the view in step, behind, and of another tab. -/
theorem witness_ReadTabFollowsView :
    (open212.admits .readTab 6 = true ∧ 6 ≤ 32 ∧ open212.tab 212 = some tab212) ∧ tab212.hasPage 2 = false ∧ tab212.hasPage 1 = true ∧
      tab212.hasPage 0 = true ∧ open212.view 6 = none ∧ (open212.setView 6 (some ⟨212, 2⟩)).view 6 = some ⟨212, 2⟩ ∧
      (open212.setView 6 (some ⟨212, 1⟩)).view 6 = some ⟨212, 1⟩ ∧ (open212.setView 6 (some ⟨213, 2⟩)).view 6 = some ⟨213, 2⟩ := by
  decide +kernel

/-- Chapter 5's send with so many tickets in the table. -/
def crowded (n : Nat) : State :=
  { halfTime with tickets := (List.range' 1 n).map fun i => (i, ticket 26 380 [1] .killed none 0 none), ticketCounter := n + 1 }

/-- Chapter 5's send, which needs two tickets; the same with two slots free, and with one. -/
theorem witness_SendStagesEveryUnsentLine :
    (halfTime.admits .send 5 = true ∧ ∃ t, halfTime.tab 410 = some t ∧ t.writtenOff = false ∧ t.kind = .running ∧ t.Sound ∧
      (t.lines.filter fun l => !l.voided && l.stage == .unsent) ≠ [] ∧
      ((let places := ((t.lines.filter fun l => !l.voided && l.stage == .unsent).map fun l =>
          halfTime.resolve ((halfTime.item l.item).bind Item.route)).filter (· != .lost)
        (places.dedup.map fun d => (places.count d + 15) / 16).sum) = 2)) ∧ halfTime.TicketsOk ∧
    ((crowded 254).admits .send 5 = true ∧ (crowded 254).tab 410 = halfTime.tab 410 ∧ (crowded 254).TicketsOk ∧ (crowded 254).tickets.length + 2 ≤ 256) ∧
    ((crowded 255).admits .send 5 = true ∧ (crowded 255).tab 410 = halfTime.tab 410 ∧ (crowded 255).TicketsOk ∧ 256 - (crowded 255).tickets.length < 2) ∧
    (halfTime.resolve ((halfTime.item 60).bind Item.route) = .lost ∧ halfTime.resolve ((halfTime.item 7).bind Item.route) = .to 29 (some 28)) := by
  unfold State.TicketsOk
  refine ⟨⟨by decide +kernel, _, rfl, ?_⟩, by decide +kernel, by decide +kernel, by decide +kernel, by decide +kernel⟩
  unfold Tab.Sound
  decide +kernel

/-- With one slot free the send is refused with both counts. -/
theorem test_send_full : answerOf (.send 5 410 false false) 5 (crowded 255) = some (refuse .full [u8 2, u8 1]) := by decide +kernel

/-- The fryer with a ticket HELD. -/
def heldFryer : State := { fryer with tickets := fryer.tickets ++ [(308, ticket 26 212 [1] .held none 0 none)] }

/-- A HELD ticket of an OPEN tab; and a tab with none HELD. -/
theorem witness_FireReleasesHeldTickets :
    heldFryer.admits .fire 5 = true ∧ (heldFryer.tab 212).isSome = true ∧ heldFryer.TicketsOk ∧
      (heldFryer.ticket 308).map Ticket.state = some .held ∧ (heldFryer.ticket 308).map Ticket.tab = some 212 ∧ fryer.TicketsOk ∧ ∀ e ∈ fryer.tickets, e.2.tab = 212 → e.2.state ≠ .held := by
  unfold State.TicketsOk
  decide +kernel

theorem witness_KillTicketReturnsLines :
    fryer.admits .killTicket 0 = true ∧ fryer.ticket 303 = some (ticket 26 212 [2] .live (some 2700) 1 (some 2700)) ∧
      (fryer.tabs.find 212).isSome = true ∧ isDrop 26 = true := by decide +kernel

/-- A ticket on the screen with another of its station's last bumped; one that is LIVE and not on it. -/
theorem witness_BumpFinishesTicket :
    fryer.admits .bump 26 = true ∧ 307 ∉ fryer.screen 26 ∧ 303 ∈ fryer.screen 26 ∧
      fryer.ticket 303 = some (ticket 26 212 [2] .live (some 2700) 1 (some 2700)) ∧ (fryer.tab 212).isSome = true ∧
      ((fryer.station 26).lastBumped.bind fun b => fryer.ticket b.ticket).isSome = true ∧ fryer.isTill 5 = true := by decide +kernel

/-- At the load limit, below it, and with no reference. -/
theorem witness_RecallReturnsTicket :
    let s := fryer.setStation 26 { fryer.station 26 with limit := 4 }
    (fryer.admits .recall 26 = true ∧ (fryer.station 26).lastBumped = some ⟨305, 2960⟩ ∧
      fryer.ticket 305 = some (ticket 26 212 [1] .bumped (some 2650) 0 (some 2650)) ∧ (fryer.tab 212).isSome = true ∧
      (fryer.station 26).inRange = true ∧ 305 ∉ (fryer.station 26).live ∧ (fryer.station 26).live.Nodup ∧
      (fryer.station 26).live.length ≤ (fryer.station 26).limit ∧ (fryer.station 26).live = [303, 306] ++ [307] ∧
      (fryer.station 26).live.length = (fryer.station 26).limit ∧ fryer.isTill 5 = true) ∧
    ((s.station 26).live.length < (s.station 26).limit ∧ (s.station 26).lastBumped = some ⟨305, 2960⟩ ∧ (s.station 26).inRange = true) ∧
    (fryer.admits .recall 27 = true ∧ (fryer.station 27).lastBumped = none) := by decide +kernel

theorem witness_RedrawMeRefillsQueue : fryer.admits .redrawMe 26 = true ∧ fryer.screen 26 = [303, 306] := by decide +kernel

/-- The fryer with 303 LIVE at a limit of one, and 306 and 307 WAITING. -/
def queued : State := fryer.setStation 26 { fryer.station 26 with limit := 1, live := [303], waiting := [306, 307] }

/-- A drop that is no station, an unchanged limit of three, a limit lowered to one, and one raised with tickets that wait. -/
theorem witness_LoadStationStoresSettings :
    fryer.mode = .operating ∧ fryer.isStation 24 = false ∧ fryer.isStation 33 = false ∧ fryer.isStation 26 = true ∧
      max 1 (min 32 3) = (fryer.station 26).limit ∧ max 1 (min 32 0) < (fryer.station 26).limit ∧ (fryer.station 26).live.Nodup ∧
      (∀ n ∈ (fryer.station 26).live, fryer.ticket n ≠ none) ∧
      (queued.isStation 26 = true ∧ (queued.station 26).limit < max 1 (min 32 2) ∧ (queued.station 26).limit < max 1 (min 32 255) ∧
        ∀ n ∈ (queued.station 26).waiting, queued.ticket n ≠ none) := by decide +kernel

/-- A limit lowered to one sends 307 and 306 back, the newest fired first; one raised to two admits one ticket, one raised to the
greatest both. -/
theorem test_load_limits :
    after (.loadStation 0 26 2 0 1 0 300 120) fryer (fun t => decide ((t.station 26).live = [303] ∧ (t.station 26).waiting = [307, 306])) = true ∧
      after (.loadStation 0 26 2 2 1 0 300 120) queued (fun t => decide ((t.station 26).live = [303, 306] ∧ (t.station 26).waiting = [307])) = true ∧
      after (.loadStation 0 26 2 255 1 0 300 120) queued (fun t => decide ((t.station 26).live = [303, 306, 307] ∧ (t.station 26).waiting = [])) = true := by
  decide +kernel

/-- A MODIFIER, an item that is not there, one with no route, one whose route is a till, one whose station's fallback is taken. -/
theorem witness_QuoteFollowsRoute :
    halfTime.admits .quote 5 = true ∧ (halfTime.item 201).map Item.kind = some .modifier ∧ halfTime.item 512 = none ∧
      (halfTime.item 60).map (fun i => (i.kind, i.route)) = some (.plain, some 20) ∧ halfTime.isStation 20 = false ∧
      ((halfTime.items.edit 60 fun i => { i with route := none }).find 60).map Item.route = some none ∧
      (halfTime.item 7).map (fun i => (i.kind, i.route)) = some (.plain, some 28) ∧ halfTime.isStation 28 = true ∧
      (halfTime.station 28).fallback = some 29 ∧ (halfTime.drop 28).present = false ∧ (halfTime.drop 29).present = true := by decide +kernel

theorem fits_one (j : Nat) (_ : 1 ≤ j) (h : inSet 1#12 j = true) : j ≤ 1 := by
  by_contra hc
  have h0 : ∀ k < 12, 1 ≤ k → (1#12).getLsbD k = false := by decide
  simp only [inSet] at h
  by_cases hk : j - 1 < 12
  · rw [h0 _ hk (by omega)] at h
    cases h
  · rw [BitVec.getLsbD_of_ge _ _ (by omega)] at h
    cases h

theorem fits_all (j : Nat) (h : inSet 4095#12 j = true) : j ≤ 12 := by
  by_contra hc
  simp only [inSet] at h
  rw [BitVec.getLsbD_of_ge _ _ (by omega)] at h
  cases h

/-- An OPEN tab split into one and into twelve, with an entry at each end; a tab in payment with every share UNPAID. -/
theorem witness_SplitAndAssignMakePlan :
    let t := paying .running (List.replicate 12 (share 10 .unpaid))
    let s := concourse.setTab 212 t
    (open212.tab 212 = some tab212 ∧ tab212.revision = 2 ∧ open212.admits .split 6 = true ∧ tab212.state = .opened ∧ 0 < open212.freeSettlements ∧
      (∃ l ∈ tab212.lines, l.voided = false) ∧ (∃ l ∈ tab212.lines, l.index = 1 ∧ l.voided = false) ∧
      (∃ l ∈ tab212.lines, l.index = 2 ∧ l.voided = false) ∧ ([⟨1, 1⟩, ⟨2, 1⟩].map SplitEntry.index).Nodup) ∧
    (SetFits 1 1#12 ∧ SetFits 12 4095#12) ∧
    (s.tab 212 = some t ∧ t.revision = 11 ∧ s.admits .split 6 = true ∧ s.admits .assign 6 = true ∧ t.state = .settling ∧
      (∀ x ∈ t.settlement.getD [], x.pay = .unpaid) ∧ (∃ l ∈ t.lines, l.index = 2 ∧ l.voided = false) ∧ t.shareCount = 12) := by
  refine ⟨by decide +kernel, ⟨⟨by decide, fits_one⟩, ⟨by decide, fun j _ h => fits_all j h⟩⟩, by decide +kernel⟩

theorem witness_UnsplitReturnsToOpen :
    let t := paying .running [share 334 .unpaid, share 333 .unpaid]
    let s := concourse.setTab 212 t
    (s.admits .unsplit 6 = true ∧ s.tab 212 = some t ∧ t.revision = 11 ∧ t.state = .settling ∧
      t.settlement = some [share 334 .unpaid, share 333 .unpaid] ∧ ∀ x ∈ [share 334 .unpaid, share 333 .unpaid], x.pay = .unpaid) ∧
    (held212.admits .unsplit 6 = true ∧ ∃ x ∈ [share 2444 (.held 5 4090), share 2442 .unpaid], x.pay ≠ .unpaid) := by decide +kernel

/-- One share, and twelve over a line that all of them share. -/
theorem witness_SharesAddUpToTab :
    (1 ≤ 1 ∧ 1 ≤ 12) ∧ (1 ≤ 12 ∧ 12 ≤ 12) ∧ (∀ l ∈ [line 1 7 2 550 2 .unsent none 1#12], l.voided = false → SetFits 1 l.shares) ∧
      ∀ l ∈ [line 1 7 99 550 2 .unsent none 4095#12], l.voided = false → SetFits 12 l.shares := by
  refine ⟨by decide, by decide, ?_, ?_⟩
  · intro l hl _
    simp only [List.mem_singleton] at hl
    subst hl
    exact ⟨by decide, fits_one⟩
  · intro l hl _
    simp only [List.mem_singleton] at hl
    subst hl
    exact ⟨by decide, fun j _ h => fits_all j h⟩

/-- Two equal remainders of a half: the one unit goes to the lower number. -/
theorem witness_LeftoverGoesToLargestRemainders :
    largestRemainder ((2 * 5000 + 5000) / 10000) 5000 [1, 1] = [1, 0] := by decide +kernel

/-- Each state of a share: UNPAID with the till free and with it full, HELD by the till and by another, PAID. -/
theorem witness_TenderBeginHoldsShare :
    (∀ src ∈ [5, 6, 24, 0], held212.admits .tenderBegin src = true ∧ src ≤ 32) ∧ (held212.tab 212).map Tab.state = some .settling ∧
      (((held212.tab 212).bind fun t => t.share 3).map Share.pay = some .unpaid ∧ held212.hold 24 = none ∧ held212.hold 5 = some ⟨212, 1⟩) ∧
      ((held212.tab 212).bind fun t => t.share 1).map Share.pay = some (.held 5 4090) ∧
      (((last212 .running).tab 212).bind fun t => t.share 1).map Share.pay = some (.paid .cash 3000 0 556 0 5) := by decide +kernel

theorem find_mem {α : Type} (m : Table α) (n : Nat) (x : α) (h : m.find n = some x) : ∃ e ∈ m, e.2 = x := by
  induction m with
  | nil => cases h
  | cons e r ih =>
    simp only [Table.find] at h
    split at h
    · exact ⟨e, by simp, Option.some.inj h⟩
    · obtain ⟨f, hf, hx⟩ := ih h
      exact ⟨f, by simp [hf], hx⟩

theorem menuOk_of (s : State) (h : ∀ e ∈ s.items, e.2.inRange = true) : s.MenuOk := by
  intro x i hi
  change (if isItemNumber x then s.items.find x else none) = some i at hi
  split at hi
  · obtain ⟨e, he, rfl⟩ := find_mem _ _ _ hi
    exact h e he
  · cases hi

theorem moneyOk_of (s : State) (h : (∀ i : Fin 33, ∀ v ∈ (s.drawers[i]).amounts, v ≤ Config.moneyCap) ∧ s.writeOffTotal ≤ Config.moneyCap) :
    s.MoneyOk := ⟨fun n => h.1 (tillIx n), h.2⟩

/-- Chapter 8's step 3 with till 5's drawer one short of the end of its cash count, and at the end of it. -/
def nearlyFull (count : Nat) : State := held212.setDrawer 5 { Drawer.zero with cashCount := count }

/-- No field past its end: nothing saturates; one past it: the flag and the alert. -/
theorem witness_TenderCommitPaysShare_money :
    (nearlyFull 999999998).MoneyOk ∧ (nearlyFull 999999999).MoneyOk ∧ ¬999999999 < 999999998 + 1 ∧ 999999999 < 999999999 + 1 :=
  ⟨moneyOk_of _ (by decide +kernel), moneyOk_of _ (by decide +kernel), by decide, by decide⟩

theorem test_commit_saturates :
    after (.tenderCommit 5 212 1 0 3000 0) (nearlyFull 999999999) (fun t =>
        decide ((t.drawer 5).saturated = true ∧ (t.drawer 5).cashCount = 999999999) && decide (t.alerts = [⟨.drawerSaturated, 5, 4090⟩])) = true ∧
      after (.tenderCommit 5 212 1 0 3000 0) (nearlyFull 999999998) (fun t =>
        decide ((t.drawer 5).saturated = false ∧ (t.drawer 5).cashCount = 999999999) && decide (t.alerts = [])) = true := by decide +kernel

/-- The last share of a RUNNING and of a PAY-FIRST tab at the exact amount and one short; a share with others left; an UNPAID share. -/
theorem witness_TenderCommitPaysShare :
    (∀ k : TabKind, (last212 k).admits .tenderCommit 5 = true ∧ ((last212 k).tab 212).map (fun t => (t.state, t.kind)) = some (.settling, k) ∧
      (((last212 k).tab 212).bind fun t => t.share 3) = some (share 2442 (.held 5 4110))) ∧
    (((last212 .running).tab 212).bind fun t => (t.setShare 3 (share 2442 (.paid .cash 2442 0 0 0 5))).settlement.map fun l =>
      l.countP fun y => !y.pay.isPaid) = some 0 ∧
    (held212.admits .tenderCommit 5 = true ∧ ((held212.tab 212).bind fun t => t.share 1) = some (share 2444 (.held 5 4090)) ∧
      ((held212.tab 212).bind fun t => t.share 3) = some (share 2442 .unpaid)) ∧
    (99999 ≤ 99999 ∧ 2442 + 99999 ≤ 99999999 ∧ ¬(2442 + 99999 ≤ 2442 + 99998)) := by
  refine ⟨?_, by decide +kernel, by decide +kernel, by decide⟩
  intro k
  cases k <;> decide +kernel

theorem witness_TenderCancelReleasesShare :
    (∀ src ∈ [5, 6], held212.admits .tenderCancel src = true ∧ src ≤ 32) ∧ (held212.tab 212).map Tab.state = some .settling ∧
      ((held212.tab 212).bind fun t => t.share 1).map Share.pay = some (.held 5 4090) ∧
      ((held212.tab 212).bind fun t => t.share 3).map Share.pay = some .unpaid ∧
      (((last212 .running).tab 212).bind fun t => t.share 2).map Share.pay = some (.paid .card 2644 200 0 0 6) := by decide +kernel

theorem witness_DrawerReadAndClose : concourse.mode = .operating ∧ 32 < 33 ∧ 32 ≤ 32 ∧ 0 ≤ 32 := by decide

/-- A tab in payment with a share PAID and one UNPAID. -/
def partPaid : State := concourse.setTab 212 (paying .running [share 2444 (.paid .cash 3000 0 556 0 5), share 2444 .unpaid])

/-- Chapter 8's tab 633; a tab in payment with no share HELD; a tab with a HELD ticket. -/
theorem witness_WriteOffSettlesTab :
    (closing.admits .writeOff 0 = true ∧ (closing.tab 633).map (fun t => (t.state, t.settlement.isNone, t.lines.any fun l => !l.voided)) =
      some (.opened, true, true) ∧ closing.TicketsOk) ∧
    (partPaid.admits .writeOff 0 = true ∧ partPaid.TicketsOk ∧ (partPaid.tab 212).map Tab.state = some .settling ∧
      ((partPaid.tab 212).map fun t => (t.settlement.getD []).all fun x => !x.pay.isHeld) = some true) ∧
    (heldFryer.admits .writeOff 0 = true ∧ heldFryer.TicketsOk ∧ (heldFryer.ticket 308).map (fun k => (k.tab, k.state)) = some (212, .held) ∧
      (heldFryer.tab 212).map (fun t => (t.state, t.settlement.isNone)) = some (.opened, true)) := by
  unfold State.TicketsOk
  decide +kernel

theorem witness_WriteOffSettlesTab_menu : closing.MenuOk ∧ partPaid.MenuOk ∧ heldFryer.MenuOk :=
  ⟨menuOk_of _ (by decide +kernel), menuOk_of _ (by decide +kernel), menuOk_of _ (by decide +kernel)⟩

/-- A write-off gives back the UNSENT pie, and the pie of a ticket HELD for its station. -/
theorem test_writeOff_gives_back :
    after (.writeOff 0 212)
      { heldFryer with
        items := heldFryer.items.edit 55 fun i => { i with stock := some 9998 },
        tabs := heldFryer.tabs.edit 212 fun t => { t with lines := t.lines ++ [line 5 41 2 650 1 .unsent none 0] } }
      (fun t => decide (((t.item 55).bind Item.stock, (t.item 41).bind Item.stock) = (some 9999, some 12))) = true := by decide +kernel

/-- A move of R2's table, one that is none, CLOSED with a tab in the table and with none, and day clear. -/
theorem witness_PeriodMovesAndDayClear :
    concourse.mode = .operating ∧ 4 < 5 ∧ concourse.period ≠ .closed ∧ periodMove concourse.period .lastCall = true ∧
      periodMove concourse.period .prep = false ∧ periodMove closing.period .closed = true ∧ closing.tabs ≠ [] ∧
      ({ concourse with period := .closeOut } : State).tabs = [] ∧ ({ concourse with period := .closed } : State).period = .closed := by
  decide +kernel

/-- An unknown rate on lane D; the rate each lane has; another rate on lane D. -/
theorem witness_SetConfigStoresSettings :
    concourse.mode = .operating ∧ (∃ l : Fin 4, 3 < (lanes 4 8)[l].1) ∧ (∀ l : Fin 4, (lanes 3 255)[l].1 ≤ 3) ∧
      (concourse.lane 3).rate.code = (lanes 1 2)[(3 : Fin 4)].1 ∧ (concourse.lane 3).rate.code ≠ (lanes 3 255)[(3 : Fin 4)].1 := by decide +kernel

theorem witness_LaneRestartAndRole :
    concourse.mode = .operating ∧ 3 < 4 ∧ (State.cold true).mode = .operating ∧ (State.cold true).period = .prep ∧ 1 < 2 ∧
      ((State.cold true).lane 3).role = .kitchen ∧ ((State.cold true).lane 0).role ≠ .kitchen := by decide +kernel

theorem witness_ReadConfigReportsFreeCounts : concourse.mode = .operating := rfl

/-- An empty table; one entry left with the marker set; more than one. -/
theorem witness_ReadAlertTakesOldest :
    (concourse.mode = .operating ∧ concourse.alerts = []) ∧
    (({ concourse with alerts := [⟨.poolLow, 0, 1⟩], alertsFull := true } : State).mode = .operating ∧
      ({ concourse with alerts := [⟨.poolLow, 0, 1⟩], alertsFull := true } : State).alerts = ⟨.poolLow, 0, 1⟩ :: []) ∧
    ({ concourse with alerts := [⟨.poolLow, 0, 1⟩, ⟨.overdue, 26, 2⟩] } : State).alerts = ⟨.poolLow, 0, 1⟩ :: [⟨.overdue, 26, 2⟩] := by
  decide +kernel

/-! The laws: a state that meets each, with a command that waits, and the next state it has. -/

def paying212 : Tab := paying .running [share 2444 (.held 5 4090), share 2444 (.held 6 4096), share 2442 .unpaid]

theorem held212_tab (n : Nat) (t : Tab) (h : held212.tab n = some t) :
    n = 212 ∧ t = paying .running [share 2444 (.held 5 4090), share 2444 (.held 6 4096), share 2442 .unpaid] := by
  have h0 : held212.tabs = [(212, paying .running [share 2444 (.held 5 4090), share 2444 (.held 6 4096), share 2442 .unpaid])] := by
    decide +kernel
  simp only [State.tab, h0, Table.find] at h
  split at h
  · split at h
    · rename_i _ hn
      exact ⟨hn.symm, (Option.some.inj h).symm⟩
    · cases h
  · cases h

/-- The shares of chapter 8's step 3 that are HELD. -/
theorem held212_shares (j : Nat) (x : Share) (till e : Nat)
    (h : (paying .running [share 2444 (.held 5 4090), share 2444 (.held 6 4096), share 2442 .unpaid]).share j = some x)
    (hp : x.pay = .held till e) : (j = 1 ∧ till = 5) ∨ (j = 2 ∧ till = 6) := by
  rcases j with _ | _ | _ | _ | j
  · cases h
  · cases h
    cases hp
    exact .inl ⟨rfl, rfl⟩
  · cases h
    cases hp
    exact .inr ⟨rfl, rfl⟩
  · cases h
    cases hp
  · cases h

theorem held212_tabsOk : held212.TabsOk := by
  simp only [State.TabsOk, Table.Rising, Tab.Sound]
  decide +kernel

theorem held212_holdsOk : held212.HoldsOk := by
  refine ⟨?_, ?_⟩
  · intro n t j x till e ht hx hp
    obtain ⟨-, rfl⟩ := held212_tab n t ht
    rcases held212_shares j x till e hx hp with ⟨-, rfl⟩ | ⟨-, rfl⟩ <;> decide
  · intro till ht n j
    have h0 : ∀ till < 33, held212.hold till = if till = 5 then some ⟨212, 1⟩ else if till = 6 then some ⟨212, 2⟩ else none := by
      decide +kernel
    rw [h0 till (by omega)]
    constructor
    · intro h
      split at h
      · rename_i h5
        cases h
        exact ⟨paying212, share 2444 (.held 5 4090), 4090, by decide +kernel, rfl, by rw [h5]; rfl⟩
      · split at h
        · rename_i h6
          cases h
          exact ⟨paying212, share 2444 (.held 6 4096), 4096, by decide +kernel, rfl, by rw [h6]; rfl⟩
        · cases h
    · rintro ⟨t, x, e, h1, h2, h3⟩
      obtain ⟨rfl, rfl⟩ := held212_tab n t h1
      rcases held212_shares j x till e h2 h3 with ⟨rfl, rfl⟩ | ⟨rfl, rfl⟩ <;> rfl

theorem witness_StepKeepsTabTable :
    let s := { held212 with pending := [.setLabel 6 212 11 row14] }
    s.TabsOk ∧ s.HoursOk ∧ ∃ t, step s = .next t := by
  refine ⟨held212_tabsOk, ?_, _, rfl⟩
  intro h
  rcases h with h | h <;> cases h

theorem witness_StepKeepsTicketTable : ({ fryer with pending := [.bump 26 303] } : State).TicketsOk ∧
    ∃ t, step { fryer with pending := [.bump 26 303] } = .next t := ⟨fryer_ticketsOk, _, rfl⟩

theorem witness_StepKeepsHolds :
    let s := { held212 with pending := [.holdExpiry 212 1] }
    (s.TabsOk ∧ s.HoldsOk) ∧ ∃ t, step s = .next t := ⟨⟨held212_tabsOk, held212_holdsOk⟩, _, rfl⟩

/-- A full table with the marker set, read. -/
theorem witness_StepKeepsAlertTable :
    let s := { concourse with
      alerts := (List.range 32).map (fun i => ⟨.overdue, i, 2700⟩), alertsFull := true, pending := [.readAlert 0] }
    s.AlertsOk ∧ ∃ t, step s = .next t := by
  refine ⟨?_, _, rfl⟩
  unfold State.AlertsOk
  decide +kernel

theorem witness_StepKeepsDrops :
    let s := { awaiting 3 8 15 (concourse.setDrop 32 { here with misses := 2 }) with pending := [.answerMiss 3] }
    s.DropsOk ∧ ∃ t, step s = .next t := by
  refine ⟨?_, _, rfl⟩
  intro d hd
  have h0 : ∀ d < 33, ((awaiting 3 8 15 (concourse.setDrop 32 { here with misses := 2 })).drop d).queuesFit = true ∧
      ((awaiting 3 8 15 (concourse.setDrop 32 { here with misses := 2 })).drop d).presenceOk = true := by decide +kernel
  simp only [isDrop, Bool.and_eq_true, decide_eq_true_eq] at hd
  exact h0 d (by omega)

/-- The fryer at its load limit, whose limit is then lowered to one. -/
theorem witness_StepKeepsRanges :
    let s := { fryer with pending := [.loadStation 0 26 2 1 1 0 300 120] }
    (s.SettingsOk ∧ s.StationsOk ∧ s.MoneyOk ∧ s.MenuOk) ∧ ∃ t, step s = .next t := by
  refine ⟨⟨?_, ?_, ?_, ?_⟩, _, rfl⟩
  · have h0 : fryer.clock < Config.clockModulus ∧ (10 ≤ fryer.holdTime ∧ fryer.holdTime ≤ 300) ∧
        (∀ i : Fin 8, fryer.taxRates[i] ≤ Config.maxRate) ∧ ∀ l, (fryer.lane l).inRange = true := by decide +kernel
    exact ⟨h0.1, h0.2.1, fun c => h0.2.2.1 (Fin.ofNat 8 c), h0.2.2.2⟩
  · intro d hd
    have h0 : ∀ d < 33, (fryer.station d).inRange = true ∧ (fryer.station d).liveFits = true := by decide +kernel
    simp only [isDrop, Bool.and_eq_true, decide_eq_true_eq] at hd
    exact h0 d (by omega)
  · exact moneyOk_of _ (by decide +kernel)
  · exact menuOk_of _ (by decide +kernel)

end Sys2Proof.Tests
end

/-! PROOFS. The menu table's requests (chapter 2): what LOAD-ITEM, SET-PRICE and SET-STOCK do, said once for each of their
outcomes, and the obligations O19, O20 and O21 read off from that. -/

namespace Sys2Proof.Machine

/-! ### A request and its owner's answer -/

/-- An admitted request is answered with what its owner makes of the state. -/
theorem answers_of_owner {i : Instr} {k : ReqKind} {src : Nat} {owner : State → State × Reply} {s v : State} {r : Reply}
    (hi : ownerOf i = some (k, src, owner)) (ha : s.admits k src = true) (ho : owner s = (v, r)) : Answers i s src k v r := by
  unfold Answers
  rw [exec_request hi, request_admitted ha, ho]

/-- The concourse controller's request of a kind it may send is admitted in every period that allows the kind. -/
theorem State.admits_controller {s : State} {k : ReqKind} (hm : s.mode = .operating) (hr : roleAllows k .controller = true)
    (hg : gateOpen k s.period = true) : s.admits k 0 = true :=
  (State.admits_iff s k 0).mpr ⟨hm, by rw [State.mayAsk_controller, hr], hg⟩

/-! ### Item records -/

/-- Only an item number has a record. -/
theorem State.isItemNumber_of_item {s : State} {n : Nat} {x : Item} (h : s.item n = some x) : isItemNumber n = true := by
  unfold State.item at h
  split at h
  · assumption
  · cases h

/-- A record cleared is UNDEFINED. -/
theorem State.item_eraseItem_same (s : State) (n : Nat) : ({ s with items := s.items.erase n } : State).item n = none := by
  simp [State.item]

theorem State.item_eraseItem_other (s : State) {n m : Nat} (h : m ≠ n) :
    ({ s with items := s.items.erase n } : State).item m = s.item m := by
  simp [State.item, h]

/-- Storing a record changes that item's record and no other, and no other field of the state. -/
theorem State.setItem_effect {s : State} {n : Nat} (x : Item) (hn : isItemNumber n = true) :
    SameBut [.items] s (s.setItem n x) ∧ (s.setItem n x).item n = some x ∧ ∀ m, m ≠ n → (s.setItem n x).item m = s.item m :=
  ⟨State.setItem_frame s n x, State.item_setItem_same s n x hn, fun m hm => State.item_setItem_other s n m x hm⟩

/-! ### LOAD-ITEM (R22, R23) -/

theorem printable_iff (cs : List Byte) : printable cs = true ↔ ∀ b ∈ cs, 0x20 ≤ b.toNat ∧ b.toNat ≤ 0x7E := by
  simp [printable, isPrintable]

/-- The checks of R22 from the name on. -/
theorem loadFieldsOk_iff (name : List Byte) (price cls route prep restricted : Nat) :
    loadFieldsOk name price cls route prep restricted = true ↔
      ((nameOf name).length ≤ 16 ∧ ∀ b ∈ nameOf name, 0x20 ≤ b.toNat ∧ b.toNat ≤ 0x7E) ∧ price ≤ 99999 ∧ cls ≤ 7 ∧ route ≤ 32 ∧
        (30 ≤ prep ∧ prep ≤ 1800) ∧ restricted ≤ 1 := by
  simp only [loadFieldsOk, Bool.and_eq_true, decide_eq_true_eq, printable_iff]
  tauto

/-- The kind check of R22: the codes 0 to 2 are kinds, and no other code is. -/
theorem itemKindOf_eq_none_iff (kind : Nat) : itemKindOf kind = none ↔ 2 < kind := by
  rcases kind with _ | _ | _ | kind <;> simp [itemKindOf]

theorem itemKindOf_defined {kind : Nat} (h0 : kind ≠ 0) (h2 : kind ≤ 2) :
    itemKindOf kind = some (some (if kind = 1 then .plain else .modifier)) := by
  obtain rfl | rfl : kind = 1 ∨ kind = 2 := by omega
  · rfl
  · rfl

section
variable {item kind price cls route prep restricted : Nat} {name : List Byte} (low : Nat) (s : State)

/-- A LOAD-ITEM that fails a check of R22, whichever it is, changes nothing. -/
theorem loadItem_refused
    (h : ¬(isItemNumber item = true ∧ kind ≤ 2 ∧ loadFieldsOk name price cls route prep restricted = true)) :
    loadItem item kind name price cls route prep restricted low s = (s, refuse .badValue []) := by
  unfold loadItem
  split
  · rfl
  · rename_i hn
    split
    · rfl
    · rename_i k hk
      have h2 : kind ≤ 2 := Nat.not_lt.mp fun h2 => by simp [(itemKindOf_eq_none_iff kind).mpr h2] at hk
      have hf : loadFieldsOk name price cls route prep restricted = false := by simpa [h2, hn] using h
      rw [if_pos hf]

/-- A LOAD-ITEM of kind UNDEFINED that passes the checks clears the record. -/
theorem loadItem_clears (hn : isItemNumber item = true) (hf : loadFieldsOk name price cls route prep restricted = true) :
    loadItem item 0 name price cls route prep restricted low s =
      ({ s with items := s.items.erase item }, okWith [u16 item, u16 0]) := by
  simp [loadItem, hn, hf, itemKindOf]

/-- A LOAD-ITEM of kind PLAIN or MODIFIER that passes the checks stores the record, its stock kept and its low mark clamped. -/
theorem loadItem_stores (hn : isItemNumber item = true) (h0 : kind ≠ 0) (h2 : kind ≤ 2)
    (hf : loadFieldsOk name price cls route prep restricted = true) :
    loadItem item kind name price cls route prep restricted low s =
      (s.setItem item
        { kind := if kind = 1 then .plain else .modifier, name := nameOf name, price := price, cls := cls,
          route := dropField route, prep := prep, restricted := decide (restricted = 1),
          stock := (s.item item).bind Item.stock, lowMark := min 9999 low },
        okWith [u16 item, u16 (min 9999 low)]) := by
  simp [loadItem, hn, hf, itemKindOf_defined h0 h2]

end

/-- Settles O19: outside PREP the period gate refuses the request; in PREP it is admitted, and the checks of R22, read as one
conjunction of ranges, tell the refusal from the two ways of taking effect. -/
theorem loadItemStoresRecord : Obligations.LoadItemStoresRecord := by
  intro item kind name price cls route prep restricted low s hm i text ok
  have hok : ok ↔ isItemNumber item = true ∧ kind ≤ 2 ∧ loadFieldsOk name price cls route prep restricted = true := by
    rw [isItemNumber_iff, loadFieldsOk_iff]
    rfl
  have admitted (hp : s.period = .prep) : s.admits .loadItem 0 = true := State.admits_controller hm rfl (by rw [hp]; rfl)
  refine ⟨fun hp => ?_, fun hp hbad => ?_, fun hp hgood hk => ?_, fun hp hgood hk => ?_⟩
  · exact request_period hm (State.mayAsk_controller s _) (by simp [gateOpen, hp])
  · exact answers_of_owner rfl (admitted hp) (loadItem_refused low s (mt hok.mpr hbad))
  · obtain ⟨hn, -, hf⟩ := hok.mp hgood
    subst hk
    have hclear := loadItem_clears low s hn hf
    have hframe := loadItem_frame item 0 name price cls route prep restricted low s
    rw [hclear] at hframe
    exact ⟨_, answers_of_owner rfl (admitted hp) hclear, hframe, State.item_eraseItem_same s item,
      fun x hx => State.item_eraseItem_other s hx⟩
  · obtain ⟨hn, h2, hf⟩ := hok.mp hgood
    exact ⟨_, answers_of_owner rfl (admitted hp) (loadItem_stores low s hn hk h2 hf), State.setItem_effect _ hn⟩

/-! ### SET-PRICE (R24) -/

theorem setPrice_noItem {item : Nat} {s : State} (price : Nat) (h : s.item item = none) :
    setPrice item price s = (s, refuse .noItem []) := by
  simp [setPrice, h]

theorem setPrice_tooHigh {item price : Nat} {s : State} {i : Item} (h : s.item item = some i) (hp : 99999 < price) :
    setPrice item price s = (s, refuse .badValue []) := by
  simp [setPrice, h, hp]

theorem setPrice_stores {item price : Nat} {s : State} {i : Item} (h : s.item item = some i) (hp : price ≤ 99999) :
    setPrice item price s = (s.setItem item { i with price := price }, okWith [u24 i.price, u24 price]) := by
  simp [setPrice, h, Nat.not_lt.mpr hp]

/-- Settles O20: SET-PRICE is admitted in every period, so its answer is the one of its three outcomes that the record and the
price choose. -/
theorem setPriceChangesPriceAlone : Obligations.SetPriceChangesPriceAlone := by
  intro item price s hm
  have ha : s.admits .setPrice 0 = true := State.admits_controller hm rfl rfl
  refine ⟨fun hn => answers_of_owner rfl ha (setPrice_noItem price hn), fun i hi => ⟨fun hp => ?_, fun hp => ?_⟩⟩
  · exact answers_of_owner rfl ha (setPrice_tooHigh hi hp)
  · exact ⟨_, answers_of_owner rfl ha (setPrice_stores hi hp), State.setItem_effect _ (State.isItemNumber_of_item hi)⟩

/-! ### SET-STOCK (R25) -/

theorem setStock_noItem {item : Nat} {s : State} (stock : Option Nat) (h : s.item item = none) :
    setStock item stock s = (s, refuse .noItem []) := by
  simp [setStock, h]

theorem setStock_stores {item : Nat} {s : State} {i : Item} (stock : Option Nat) (h : s.item item = some i) :
    setStock item stock s = (s.setItem item { i with stock := stock.map (min 9999) },
      okWith [stockData i.stock, stockData (stock.map (min 9999))]) := by
  simp [setStock, h]

/-- Settles O21: SET-STOCK is admitted in every period, and its only effect on a defined item is the record written. -/
theorem setStockWritesOutright : Obligations.SetStockWritesOutright := by
  intro item stock s hm
  have ha : s.admits .setStock 0 = true := State.admits_controller hm rfl rfl
  refine ⟨fun hn => answers_of_owner rfl ha (setStock_noItem stock hn), fun i hi => ?_⟩
  exact ⟨_, answers_of_owner rfl ha (setStock_stores stock hi), State.setItem_effect _ (State.isItemNumber_of_item hi)⟩

end Sys2Proof.Machine

/-! PROOFS. The alert table's request (chapter 10): what READ-ALERT does on an empty table and on one with entries, and the
obligation O53 read off from that. -/

namespace Sys2Proof.Machine

/-! ### READ-ALERT (R188) -/

/-- The state a READ-ALERT leaves when `rest` stays in the table: a table just emptied loses its FULL marker. -/
def State.dropOldestAlert (s : State) (rest : List Alert) : State :=
  { s with alerts := rest, alertsFull := if rest = [] then false else s.alertsFull }

theorem State.dropOldestAlert_alertsFull (s : State) (rest : List Alert) :
    (s.dropOldestAlert rest).alertsFull = true ↔ s.alertsFull = true ∧ rest ≠ [] := by
  cases rest with
  | nil => simp [State.dropOldestAlert]
  | cons b rest => simp [State.dropOldestAlert]

/-- The byte that carries the FULL marker. -/
theorem highMark_eq_ite (b : Bool) : highMark b = if b = true then 4 else 0 := by
  cases b <;> rfl

theorem readAlert_empty {s : State} (h : s.alerts = []) : readAlert s = (s, ⟨.ok, 0, [u8 0]⟩) := by
  simp [readAlert, h, okWith]

theorem readAlert_oldest {s : State} {a : Alert} {rest : List Alert} (h : s.alerts = a :: rest) :
    readAlert s = (s.dropOldestAlert rest,
      ⟨.ok, if s.alertsFull = true then 4 else 0, [u8 a.kind.code, u16 a.subject, u32 a.clock, u8 rest.length]⟩) := by
  simp [readAlert, h, State.dropOldestAlert, highMark_eq_ite]

/-- Settles O53: READ-ALERT is admitted in every period, so its answer is the one of its two outcomes that the table chooses;
the frame of the request says that nothing but the table and its marker changes. -/
theorem readAlertTakesOldest : Obligations.ReadAlertTakesOldest := by
  intro s hm
  have ha : s.admits .readAlert 0 = true := State.admits_controller hm rfl rfl
  refine ⟨fun he => answers_of_owner rfl ha (readAlert_empty he), fun a rest hc => ?_⟩
  have hread := readAlert_oldest hc
  have hframe : SameBut [.alerts, .alertsFull] s (s.dropOldestAlert rest) := by
    simpa only [hread] using readAlert_frame s
  exact ⟨_, answers_of_owner rfl ha hread, hframe, rfl, State.dropOldestAlert_alertsFull s rest⟩

end Sys2Proof.Machine

/-! PROOFS. How a law of the state is carried by every step (chapters 1 to 10): a law reads some fields and is kept by whatever
leaves those alone; a law of the alert table or of the drops is kept by every operation that only enters alerts, places notices
and queues station messages. -/

namespace Sys2Proof.Machine

/-! ### A law and the fields it reads -/

/-- The law speaks of no field but those named. -/
def Reads (fs : List Part) (P : State → Prop) : Prop :=
  ∀ ⦃ps : List Part⦄ ⦃s t : State⦄, SameBut ps s t → (∀ f ∈ fs, f ∉ ps) → P s → P t

namespace Reads
variable {fs gs : List Part} {P Q : State → Prop} {s : State}

theorem mono (h : Reads fs P) (hs : fs ⊆ gs) : Reads gs P :=
  fun _ _ _ f hd => h f fun p hp => hd p (hs hp)

theorem and (hp : Reads fs P) (hq : Reads gs Q) : Reads (fs ++ gs) fun s => P s ∧ Q s :=
  fun _ _ _ f hd hs => ⟨hp f (fun p h => hd p (List.mem_append_left _ h)) hs.1,
    hq f (fun p h => hd p (List.mem_append_right _ h)) hs.2⟩

/-- An owner that leaves the law's fields alone keeps it. -/
theorem owner (h : Reads fs P) {i : Instr} {k : ReqKind} {src : Nat} {o : State → State × Reply}
    (hi : ownerOf i = some (k, src, o)) (hd : ∀ f ∈ fs, f ∉ ownerParts i) (hs : P s) : P (o s).1 :=
  h (owner_frame hi s) hd hs

theorem link (h : Reads fs P) (hd : ∀ f ∈ fs, f ∉ linkParts) : ∀ s t, SameBut linkParts s t → P s → P t :=
  fun _ _ f hs => h f hd hs

/-- The reset leaves the cold start values in every field but the link's and the reset's own. -/
theorem coldKeeping (h : Reads fs P) (hd : ∀ f ∈ fs, f ∉ linkParts) (hc : ∀ cfg, P (State.cold cfg)) (s : State) (m : Mode) :
    P (s.coldKeeping m) :=
  h.link hd (State.cold s.cfgHigh) _ (by constructor <;> intro hn <;> first | rfl | exact absurd (by simp) hn) (hc _)

theorem risesDue (h : Reads fs P) (hd : Part.risesDue ∉ fs) (ns : List DueRise) (hs : P s) : P { s with risesDue := ns } :=
  h (ps := [.risesDue]) (by constructor <;> intro hn <;> first | rfl | exact absurd (by simp) hn)
    (fun f hf hm => hd (List.mem_singleton.mp hm ▸ hf)) hs

theorem tick (h : Reads fs P) (hd : Part.risesDue ∉ fs ∧ Part.clock ∉ fs ∧ Part.tickets ∉ fs) (hs : P s) : P s.tick :=
  h (ps := [.risesDue, .clock, .tickets]) (by constructor <;> intro hn <;> first | rfl | exact absurd (by simp) hn)
    (fun f hf hm => by
      obtain ⟨h1, h2, h3⟩ := hd
      simp only [List.mem_cons, List.not_mem_nil, or_false] at hm
      rcases hm with rfl | rfl | rfl
      · exact h1 hf
      · exact h2 hf
      · exact h3 hf) hs

/-- What is done once for each entry of a list keeps the law when each time does. -/
theorem foldl {β : Type} {f : State → β → State} (hf : ∀ s x, P s → P (f s x)) (l : List β) (s : State) (hs : P s) :
    P (l.foldl f s) := by
  induction l generalizing s with
  | nil => exact hs
  | cons x l ih => exact ih _ (hf s x hs)

end Reads

/-! ### Alerts, notices and messages -/

/-- A law kept by every entry of an alert, every notice and every station message, and by what touches none of these. -/
structure Signals (P : State → Prop) : Prop where
  frame : Reads [.alerts, .alertsFull, .drops] P
  enter : ∀ s k n, P s → P (State.enterAlert s k n)
  notify : ∀ s d n, P s → P (State.notify s d n)
  post : ∀ s d ms, P s → P (State.post s d ms)

namespace Signals
variable {P : State → Prop} (h : Signals P) {s : State}
include h

theorem notifyPresent (n : Notice) (hs : P s) : P (s.notifyPresent n) :=
  Reads.foldl (fun st d => h.notify st d n) _ s hs

theorem syncScreen (d : Nat) (before : List Nat) (b : Option Nat) (hs : P s) : P (s.syncScreen d before b) :=
  h.post _ _ _ (h.frame (State.markShown_fold_frame _ s) (by decide) hs)

theorem stockAlerts (x : Nat) (hs : P s) : P (s.stockAlerts x) := by
  unfold State.stockAlerts
  split
  · exact hs
  · split
    · exact hs
    · rename_i i _ _ c _
      have h1 : P (if c ≤ i.lowMark then s.enterAlert .lowStock x else s) := by
        split
        · exact h.enter _ _ _ hs
        · exact hs
      dsimp only
      split
      · exact h.notifyPresent _ (h.enter _ _ _ h1)
      · exact h1

theorem reserve (item : Nat) (mods : List Nat) (q : Nat) (hs : P s) : P (s.reserve item mods q) :=
  Reads.foldl (fun _ x => h.stockAlerts x) _ _
    (h.frame (SameBut.foldl (fun st x => State.takeStock_frame st x _) _ s) (by decide) hs)

theorem poolCheck (hs : P s) : P s.poolCheck := by
  unfold State.poolCheck
  split
  · exact h.enter _ _ _ hs
  · exact hs

theorem fireAll (ns : List Nat) (hs : P s) : P (s.fireAll ns) :=
  Reads.foldl (fun _ d => h.syncScreen d _ _) _ _ (h.frame (SameBut.foldl State.fireOne_frame ns s) (by decide) hs)

theorem killTicket (n : Nat) (hs : P s) : P (s.killTicket n) := by
  unfold State.killTicket
  split
  · exact hs
  · rename_i k _
    have h1 : P ((s.takeOut n k.station).editTicket n fun k => { k with state := .killed }) :=
      h.frame (State.editTicket_frame _ _ _) (by decide) (h.frame (State.takeOut_frame s n _) (by decide) hs)
    refine h.syncScreen _ _ _ (h.frame (State.clearRefs_frame _ _) (by decide) ?_)
    split
    · exact h.frame (State.fillLive_frame _ _) (by decide) h1
    · exact h1

theorem retireCheck (n : Nat) (hs : P s) : P (s.retireCheck n) :=
  h.frame (State.retireCheck_frame s n) (by decide) hs

theorem setTab (n : Nat) (t : Tab) (hs : P s) : P (s.setTab n t) :=
  h.frame (State.setTab_frame s n t) (by decide) hs

theorem voidOnTicket (n ix : Nat) (hs : P s) : P (s.voidOnTicket n ix) := by
  unfold State.voidOnTicket
  split
  · exact hs
  · have h1 := fun f => h.frame (State.editTicket_frame s n f) (by decide) hs
    dsimp only
    split
    · exact h.retireCheck _ (h.killTicket _ (h1 _))
    · split
      · exact h.post _ _ _ (h1 _)
      · exact h1 _

theorem loseRoute (tab : Nat) (l : Line) (hs : P s) : P (State.loseRoute tab s l) :=
  h.enter _ _ _ (h.frame (State.editTab_frame s tab _) (by decide) hs)

theorem sendTab {n : Nat} {t : Tab} {hold rush : Bool} {u : State} {made : List Nat} {lost : Nat} (hs : P s)
    (hd : s.sendTab n t hold rush = .done u made lost) : P u := by
  unfold State.sendTab at hd
  dsimp only at hd
  split at hd
  · cases hd
  · cases hd
    have h1 := Reads.foldl (fun st l => h.loseRoute (s := st) n l) (groupOf (s.gather t) .lost) s hs
    have h2 := h.frame (SameBut.foldl (State.makeTicket_frame n rush) (runsFrom (s.gather t) [] (s.gather t)) _) (by decide) h1
    split
    · exact h2
    · exact h.fireAll _ h2

theorem autoSend (n : Nat) (t : Tab) (hs : P s) : P (s.autoSend n t) := by
  unfold State.autoSend
  split
  · exact hs
  · split
    · exact h.enter _ _ _ hs
    · rename_i hd
      exact h.sendTab hs hd

theorem credit (till : Nat) (c : Drawer) (hs : P s) : P (s.credit till c) := by
  have h1 := h.frame (State.setDrawer_frame s till ((s.drawer till).credited c)) (by decide) hs
  unfold State.credit
  dsimp only
  split
  · exact h.enter _ _ _ h1
  · exact h1

theorem restore (l : Line) (hs : P s) : P (s.restore l) := h.frame (State.restore_frame s l) (by decide) hs

theorem restoreTicket (k : Ticket) (hs : P s) : P (s.restoreTicket k) := h.frame (State.restoreTicket_frame s k) (by decide) hs

theorem killAndRestore (n : Nat) (hs : P s) : P (s.killAndRestore n) := by
  unfold State.killAndRestore
  split
  · exact hs
  · exact h.restoreTicket _ (h.killTicket _ hs)

/-! ### The owners that signal -/

theorem addLine (tab rev item qty : Nat) (mods : List Nat) (hs : P s) : P (addLine tab rev item qty mods s).1 := by
  unfold Machine.addLine
  split
  · exact hs
  · unfold addLineTo
    dsimp only
    repeat' split
    all_goals first
      | exact hs
      | exact h.enter _ _ _ hs
      | exact h.poolCheck (h.setTab _ _ (h.reserve _ _ _ hs))

theorem voidLine (tab rev index : Nat) (hs : P s) : P (voidLine tab rev index s).1 := by
  unfold Machine.voidLine
  split
  · exact hs
  · unfold voidLineOf
    split
    · exact hs
    · rename_i l _
      have h1 : P (if s.voidRestores l then s.restore l else s) := by
        split
        · exact h.restore l hs
        · exact hs
      dsimp only
      split
      · exact h.voidOnTicket _ _ (h.setTab _ _ h1)
      · exact h.setTab _ _ h1

theorem sendRequest (tab : Nat) (hold rush : Bool) (hs : P s) : P (sendRequest tab hold rush s).1 := by
  unfold Machine.sendRequest
  split
  · exact hs
  · split
    · exact hs
    · split
      · exact hs
      · unfold sendOf
        split
        · exact hs
        · split
          · exact hs
          · rename_i hd
            have h1 := h.sendTab hs hd
            dsimp only
            split
            · exact h.retireCheck _ h1
            · exact h1

theorem fireRequest (tab : Nat) (hs : P s) : P (fireRequest tab s).1 := by
  unfold Machine.fireRequest
  split
  · exact hs
  · exact h.fireAll _ hs

theorem killRequest (n : Nat) (hs : P s) : P (killRequest n s).1 := by
  unfold Machine.killRequest
  split
  · exact hs
  · split
    · exact hs
    · exact h.retireCheck _ (h.frame (State.editTab_frame _ _ _) (by decide) (h.restoreTicket _ (h.killTicket n hs)))

theorem bumpTicket (d n : Nat) (k : Ticket) (hs : P s) : P (bumpTicket d n k s) := by
  have h1 : P (((s.takeOut n d).editTicket n fun k => { k with state := .bumped }).stageLines k .ready) :=
    h.frame (State.editTab_frame _ _ _) (by decide)
      (h.frame (State.editTicket_frame _ _ _) (by decide) (h.frame (State.takeOut_frame s n d) (by decide) hs))
  exact h.syncScreen _ _ _ (h.frame (State.fillLive_frame _ _) (by decide)
    (h.notify _ _ _ (h.frame (State.setStation_frame _ _ _) (by decide) h1)))

theorem bumpRequest (d n : Nat) (hs : P s) : P (bumpRequest d n s).1 := by
  unfold Machine.bumpRequest
  split
  · exact hs
  · have h1 := fun k => h.bumpTicket d n k hs
    dsimp only
    split
    · exact h.retireCheck _ (h.retireCheck _ (h1 _))
    · exact h.retireCheck _ (h1 _)

theorem recallTicket (d n : Nat) (k : Ticket) (hs : P s) : P (recallTicket d n k s) :=
  h.syncScreen _ _ _ (h.notify _ _ _ (h.frame (State.editTab_frame _ _ _) (by decide)
    (h.frame (State.editTicket_frame _ _ _) (by decide) (h.frame (State.setStation_frame _ _ _) (by decide)
      (h.frame (makeRoom_frame _ d) (by decide) (h.frame (State.setStation_frame s _ _) (by decide) hs))))))

theorem recallRequest (d : Nat) (hs : P s) : P (recallRequest d s).1 := by
  unfold Machine.recallRequest
  split
  · exact hs
  · split
    · exact hs
    · exact h.recallTicket _ _ _ hs

theorem markSoldOut (item : Nat) (hs : P s) : P (markSoldOut item s).1 := by
  unfold Machine.markSoldOut
  split
  · exact hs
  · exact h.notifyPresent _ (h.enter _ _ _ (h.frame (State.setItem_frame s _ _) (by decide) hs))

theorem loadStation (d depth limit crew fallback prep interval : Nat) (hs : P s) :
    P (loadStation d depth limit crew fallback prep interval s).1 := by
  unfold Machine.loadStation
  split
  · exact hs
  · exact h.syncScreen _ _ _ (h.frame (relimit_frame _ d _) (by decide) (h.frame (State.setStation_frame s _ _) (by decide) hs))

theorem settle (n : Nat) (t : Tab) (hs : P s) : P (s.settle n t) := h.retireCheck _ (h.autoSend _ _ (h.setTab _ _ hs))

theorem tenderCommit (src tab share kind tendered tip : Nat) (hs : P s) : P (tenderCommit src tab share kind tendered tip s).1 := by
  unfold Machine.tenderCommit
  repeat' split
  all_goals try exact hs
  unfold acceptTender
  have h1 := fun t => h.frame (State.setHold_frame (s.setTab tab t) src none) (by decide) (h.setTab tab t hs)
  dsimp only
  split
  · exact h.settle _ _ (h.credit _ _ (h1 _))
  · exact h.credit _ _ (h1 _)

theorem writeOff (n : Nat) (hs : P s) : P (writeOff n s).1 := by
  unfold Machine.writeOff
  repeat' split
  all_goals try exact hs
  rename_i t _ _ _
  have h1 : P { s with writeOffTotal := addCapped s.writeOffTotal (writeOffAmount t).1 } :=
    h.frame (ps := [.writeOffTotal]) (by constructor <;> intro hn <;> first | rfl | exact absurd (by simp) hn) (by decide) hs
  exact h.retireCheck _ (Reads.foldl (fun _ n => h.killAndRestore n) _ _
    (h.setTab _ _ (Reads.foldl (fun _ l => h.restore l) _ _ h1)))

/-! ### The part's own events that signal -/

theorem expireHold (tab share : Nat) (hs : P s) : P (s.expireHold tab share) := by
  unfold State.expireHold
  repeat' split
  all_goals try exact hs
  exact h.notify _ _ _ (h.frame (releaseShare_frame s _ _ _ _ _) (by decide) hs)

theorem rise (n : Nat) (hs : P s) : P (s.rise n) := by
  unfold State.rise
  split
  · exact hs
  · rename_i k _
    have h1 := h.enter _ .overdue k.station
      (h.frame (State.editTicket_frame s n fun k => { k with level := k.level + 1 }) (by decide) hs)
    dsimp only
    split
    · exact h.post _ _ _ h1
    · exact h1

theorem endWindow (d : Nat) (hs : P s) : P (s.endWindow d) := h.frame (endWindow_frame s d) (by decide) hs

end Signals

end Sys2Proof.Machine

/-! PROOFS. The alert table and the drops (R166, R176 to R179, R187, R189): what one entry, one notice and one station message
keep of them, and the obligations O57 and O58. -/

namespace Sys2Proof.Machine

/-! ### The alert table -/

theorem State.AlertsOk.reads : Reads [.alerts, .alertsFull] State.AlertsOk := by
  intro ps s t f hd hs
  unfold State.AlertsOk
  rw [f.alerts (hd _ (by simp)), f.alertsFull (hd _ (by simp))]
  exact hs

theorem State.alertsOk_empty {s : State} (ha : s.alerts = []) (hf : s.alertsFull = false) : s.AlertsOk := by
  simp [State.AlertsOk, ha, hf]

/-- An entry whose key no alert has is a key of its own. -/
theorem State.AlertsOk.enter {s : State} (h : s.AlertsOk) (kind : AlertKind) (subject : Nat) : (s.enterAlert kind subject).AlertsOk := by
  obtain ⟨hlen, hkeys, hfull⟩ := h
  unfold State.enterAlert
  split
  · exact ⟨hlen, hkeys, hfull⟩
  · rename_i hnew
    split
    · rename_i hroom
      refine ⟨by simpa using hroom, ?_, by simp⟩
      refine List.pairwise_append.mpr ⟨hkeys, List.pairwise_singleton _ _, fun a ha b hb => ?_⟩
      obtain rfl := List.mem_singleton.mp hb
      intro heq
      obtain ⟨hk, hn⟩ := Prod.mk.inj heq
      exact hnew (List.any_eq_true.mpr ⟨a, ha, by simp [hk, hn]⟩)
    · rename_i hroom
      refine ⟨hlen, hkeys, fun _ he => hroom ?_⟩
      rw [show s.alerts = [] from he]
      decide

theorem State.AlertsOk.readAlert {s : State} (h : s.AlertsOk) : (readAlert s).1.AlertsOk := by
  obtain ⟨hlen, hkeys, hfull⟩ := h
  unfold Machine.readAlert
  split
  · exact ⟨hlen, hkeys, hfull⟩
  · rename_i a rest ha
    rw [ha] at hlen hkeys
    refine ⟨Nat.le_of_succ_le hlen, (List.pairwise_cons.mp hkeys).2, fun hm he => ?_⟩
    simp [show rest = [] from he] at hm

theorem State.AlertsOk.signals : Signals State.AlertsOk where
  frame := State.AlertsOk.reads.mono (by decide)
  enter _ k n hs := hs.enter k n
  notify s d n := State.AlertsOk.reads (State.notify_frame s d n) (by decide)
  post s d ms := State.AlertsOk.reads (State.post_frame s d ms) (by decide)

theorem State.AlertsOk.endDay (s : State) : (endDay s).1.AlertsOk :=
  State.AlertsOk.reads (changePeriod_frame s.dayClear .prep) (by decide) (State.alertsOk_empty rfl rfl)

theorem State.AlertsOk.owner {i : Instr} {k : ReqKind} {src : Nat} {o : State → State × Reply} {s : State}
    (hi : ownerOf i = some (k, src, o)) (hs : s.AlertsOk) : (o s).1.AlertsOk := by
  cases i with
  | addLine => cases hi; exact State.AlertsOk.signals.addLine _ _ _ _ _ hs
  | markSoldOut => cases hi; exact State.AlertsOk.signals.markSoldOut _ hs
  | send => cases hi; exact State.AlertsOk.signals.sendRequest _ _ _ hs
  | tenderCommit => cases hi; exact State.AlertsOk.signals.tenderCommit _ _ _ _ _ _ hs
  | endDay => cases hi; exact State.AlertsOk.endDay s
  | readAlert => cases hi; exact hs.readAlert
  | _ => exact State.AlertsOk.reads.owner hi (by simp [ownerParts]) hs

theorem State.AlertsOk.miss {s : State} (h : s.AlertsOk) (l : Fin 4) : (s.miss l).AlertsOk := by
  have h1 := fun x => State.AlertsOk.reads (State.setDrop_frame s (s.polled l) x) (by decide) h
  unfold State.miss
  dsimp only
  refine State.AlertsOk.reads (pollDone_frame _ l) (by decide) ?_
  split
  · exact (h1 _).enter _ _
  · exact h1 _

theorem State.AlertsOk.carried : Carried State.AlertsOk where
  link := State.AlertsOk.reads.link (by decide)
  cold := State.AlertsOk.reads.coldKeeping (by decide) fun _ => State.alertsOk_empty rfl rfl
  slot s d r := State.AlertsOk.reads (State.setDrop_frame s d _) (by decide)
  owner _ _ _ _ _ hi _ hs := State.AlertsOk.owner hi hs
  expire s n j := State.AlertsOk.signals.expireHold n j
  window s d := State.AlertsOk.signals.endWindow d
  rise s n := State.AlertsOk.signals.rise n
  due s ns := State.AlertsOk.reads.risesDue (by decide) ns
  tick s := State.AlertsOk.reads.tick (by decide)
  poll s l _ := State.AlertsOk.reads (beginPoll_frame s l) (by decide)
  turn s l w := State.AlertsOk.reads (State.setLane_frame s l _) (by decide)
  miss s l hs := hs.miss l
  heard s l := State.AlertsOk.reads (heard_frame s l) (by decide)

/-- Settles O57: alerts are entered one at a time, and READ-ALERT and day clear only take entries away. -/
theorem stepKeepsAlertTable : Obligations.StepKeepsAlertTable :=
  fun s t hs he => State.AlertsOk.carried.step s t hs he

/-! ### The drops -/

theorem State.DropsOk.reads : Reads [.drops] State.DropsOk := by
  intro ps s t f hd hs d hdrop
  rw [State.drop_of (f.drops (hd _ (by simp)))]
  exact hs d hdrop

theorem State.dropsOk_cold {s : State} (h : s.drops = .replicate 32 .cold) : s.DropsOk := by
  intro d hd
  have : s.drop d = .cold := by simp [State.drop, h]
  rw [this]
  decide

/-- Storing a drop's state keeps the law when the state stored meets it. -/
theorem State.DropsOk.setDrop {s : State} (h : s.DropsOk) {d : Nat} {x : Drop}
    (hx : isDrop d = true → x.queuesFit = true ∧ x.presenceOk = true) : (s.setDrop d x).DropsOk := by
  intro e he
  rcases eq_or_ne e d with rfl | hne
  · rw [State.drop_setDrop_same s e x he]
    exact hx he
  · rw [State.drop_setDrop_other s d e x hne]
    exact h e he

/-- A notice queue with a notice placed holds at most its eight places (R178). -/
theorem queueNotice_length (q : List Notice) (n : Notice) : (queueNotice q n).length ≤ Config.noticeSlots := by
  unfold queueNotice
  split
  · simpa using ‹q.length < _›
  · simp only [List.length_append, List.length_drop, List.length_singleton, Config.noticeSlots] at *
    omega

theorem Drop.queuesFit_iff (x : Drop) :
    x.queuesFit = true ↔ x.notices.length ≤ Config.noticeSlots ∧ x.messages.length ≤ Config.messageSlots := by
  simp [Drop.queuesFit]

theorem Drop.presenceOk_iff (x : Drop) : x.presenceOk = true ↔ x.misses ≤ 3 ∧ (x.present = true ↔ x.misses < 3) := by
  cases hp : x.present <;> simp [Drop.presenceOk, hp]

/-- A redraw queues at most sixteen messages (R107). -/
theorem State.redrawMsgs_length (s : State) (d : Nat) : (s.redrawMsgs d).length ≤ Config.messageSlots := List.length_take_le _ _

theorem State.DropsOk.redraw {s : State} (h : s.DropsOk) (d : Nat) : (s.redraw d).DropsOk :=
  h.setDrop fun hd => by
    obtain ⟨hq, hp⟩ := h d hd
    exact ⟨(Drop.queuesFit_iff _).mpr ⟨((Drop.queuesFit_iff _).mp hq).1, s.redrawMsgs_length d⟩, hp⟩

theorem State.DropsOk.notify {s : State} (h : s.DropsOk) (d : Nat) (n : Notice) : (s.notify d n).DropsOk := by
  unfold State.notify
  split
  · refine h.setDrop fun hd => ?_
    obtain ⟨hq, hp⟩ := h d hd
    exact ⟨(Drop.queuesFit_iff _).mpr ⟨queueNotice_length _ n, ((Drop.queuesFit_iff _).mp hq).2⟩, hp⟩
  · exact h

theorem State.DropsOk.post {s : State} (h : s.DropsOk) (d : Nat) (ms : List Msg) : (s.post d ms).DropsOk := by
  intro e he
  obtain ⟨hq, hp⟩ := h e he
  obtain ⟨hn, hm⟩ := (Drop.queuesFit_iff _).mp hq
  have hfit := State.post_fitsAll s d ms e hm
  rw [State.post_only s d ms e]
  exact ⟨(Drop.queuesFit_iff _).mpr ⟨hn, hfit⟩, hp⟩

theorem State.DropsOk.signals : Signals State.DropsOk where
  frame := State.DropsOk.reads.mono (by decide)
  enter s k n := State.DropsOk.reads (State.enterAlert_frame s k n) (by decide)
  notify _ d n hs := hs.notify d n
  post _ d ms hs := hs.post d ms

theorem State.DropsOk.restartLane {s : State} (h : s.DropsOk) (l : Fin 4) : (s.restartLane l).DropsOk := by
  have h1 : (s.clearDrops l).DropsOk := Reads.foldl (fun st d hs => hs.setDrop fun _ => by decide) _ s h
  exact State.DropsOk.reads (State.setLane_frame _ l _) (by decide) (State.DropsOk.reads (clearViews_frame _ l) (by decide) h1)

theorem State.DropsOk.configLane {s : State} (h : s.DropsOk) (l : Fin 4) (rate : Rate) (window : Nat) :
    (s.configLane l rate window).DropsOk := by
  have h1 := fun x => State.DropsOk.reads (State.setLane_frame s l x) (by decide) h
  unfold State.configLane
  dsimp only
  split
  · exact h1 _
  · exact (h1 _).restartLane l

theorem State.DropsOk.configFour {s : State} (h : s.DropsOk) (ra rb rc rd : Rate) (a b c d : Nat) :
    ((((s.configLane 0 ra a).configLane 1 rb b).configLane 2 rc c).configLane 3 rd d).DropsOk :=
  (((h.configLane 0 ra a).configLane 1 rb b).configLane 2 rc c).configLane 3 rd d

theorem State.DropsOk.setConfig {s : State} (h : s.DropsOk) (hold : Nat) (w : Vector (Nat × Nat) 4) :
    (setConfig hold w s).1.DropsOk := by
  unfold Machine.setConfig
  split
  · dsimp only [setConfigOf]
    refine State.DropsOk.configFour ?_ _ _ _ _ _ _ _ _
    exact State.DropsOk.reads (ps := [.holdTime]) (by constructor <;> intro hn <;> first | rfl | exact absurd (by simp) hn)
      (by decide) h
  · exact h

theorem State.DropsOk.setLaneRole {s : State} (h : s.DropsOk) (lane role : Nat) : (setLaneRole lane role s).1.DropsOk := by
  unfold Machine.setLaneRole
  split
  · dsimp only
    split
    · exact h
    · exact (State.DropsOk.reads (State.setLane_frame s _ _) (by decide) h).restartLane _
  · exact h

theorem State.DropsOk.laneRestart {s : State} (h : s.DropsOk) (lane : Nat) : (laneRestart lane s).1.DropsOk := by
  unfold Machine.laneRestart
  split
  · exact h
  · exact h.restartLane _

theorem State.DropsOk.changePeriod {s : State} (h : s.DropsOk) (p : Period) : (s.changePeriod p).DropsOk :=
  State.DropsOk.signals.notifyPresent _ (s := { s with period := p }) h

theorem State.DropsOk.setPeriod {s : State} (h : s.DropsOk) (target : Nat) : (setPeriod target s).1.DropsOk := by
  unfold Machine.setPeriod
  repeat' split
  all_goals try exact h
  exact h.changePeriod _

/-- RECALL stands before the split, here and below: Mathlib has its name for a keyword, and a case of it cannot be named. -/
theorem State.DropsOk.owner {i : Instr} {k : ReqKind} {src : Nat} {o : State → State × Reply} {s : State}
    (hi : ownerOf i = some (k, src, o)) (hs : s.DropsOk) : (o s).1.DropsOk := by
  by_cases hrecall : ∃ n, i = .recall n
  · obtain ⟨n, rfl⟩ := hrecall
    cases hi
    exact State.DropsOk.signals.recallRequest _ hs
  cases i with
  | addLine => cases hi; exact State.DropsOk.signals.addLine _ _ _ _ _ hs
  | voidLine => cases hi; exact State.DropsOk.signals.voidLine _ _ _ hs
  | markSoldOut => cases hi; exact State.DropsOk.signals.markSoldOut _ hs
  | send => cases hi; exact State.DropsOk.signals.sendRequest _ _ _ hs
  | fire => cases hi; exact State.DropsOk.signals.fireRequest _ hs
  | killTicket => cases hi; exact State.DropsOk.signals.killRequest _ hs
  | bump => cases hi; exact State.DropsOk.signals.bumpRequest _ _ hs
  | redrawMe => cases hi; exact hs.redraw _
  | loadStation => cases hi; exact State.DropsOk.signals.loadStation _ _ _ _ _ _ _ hs
  | tenderCommit => cases hi; exact State.DropsOk.signals.tenderCommit _ _ _ _ _ _ hs
  | writeOff => cases hi; exact State.DropsOk.signals.writeOff _ hs
  | setConfig => cases hi; exact hs.setConfig _ _
  | setLaneRole => cases hi; exact hs.setLaneRole _ _
  | laneRestart => cases hi; exact hs.laneRestart _
  | setPeriod => cases hi; exact hs.setPeriod _
  | endDay => cases hi; exact State.DropsOk.changePeriod (s := s.dayClear) hs _
  | _ => exact State.DropsOk.reads.owner hi (by simp [ownerParts] at hrecall ⊢) hs

/-- A poll only takes an item away. -/
theorem Drop.queuesFit_afterPoll {x : Drop} (h : x.queuesFit = true) (role : Role) : (x.afterPoll role).queuesFit = true := by
  obtain ⟨hn, hm⟩ := (Drop.queuesFit_iff x).mp h
  refine (Drop.queuesFit_iff _).mpr ?_
  unfold Drop.afterPoll
  split
  · exact ⟨hn, hm⟩
  · cases role
    · exact ⟨by simp only [List.length_tail]; omega, hm⟩
    · exact ⟨hn, by simp only [List.length_tail]; omega⟩

theorem Drop.presenceOk_afterPoll {x : Drop} (h : x.presenceOk = true) (role : Role) : (x.afterPoll role).presenceOk = true := by
  unfold Drop.afterPoll
  split
  · exact h
  · cases role <;> exact h

theorem State.DropsOk.beginPoll {s : State} (h : s.DropsOk) (l : Fin 4) : (s.beginPoll l).DropsOk :=
  State.DropsOk.reads (State.setLane_frame _ l _) (by decide) (h.setDrop fun hd =>
    ⟨Drop.queuesFit_afterPoll (h _ hd).1 _, Drop.presenceOk_afterPoll (h _ hd).2 _⟩)

/-- A miss leaves a drop ABSENT exactly when it was its third (R176). -/
theorem Drop.presenceOk_miss {x : Drop} (h : x.presenceOk = true) :
    Drop.presenceOk { x with misses := min 3 (x.misses + 1), present := x.present && decide (x.misses + 1 < 3) } = true := by
  obtain ⟨hm, hp⟩ := (Drop.presenceOk_iff x).mp h
  refine (Drop.presenceOk_iff _).mpr ⟨Nat.min_le_left _ _, ?_⟩
  simp only [Bool.and_eq_true, decide_eq_true_eq, hp]
  omega

theorem State.DropsOk.miss {s : State} (h : s.DropsOk) (l : Fin 4) : (s.miss l).DropsOk := by
  have h1 : (s.setDrop (s.polled l) { s.drop (s.polled l) with
      misses := min 3 ((s.drop (s.polled l)).misses + 1),
      present := (s.drop (s.polled l)).present && decide ((s.drop (s.polled l)).misses + 1 < 3) }).DropsOk :=
    h.setDrop fun hd => ⟨(h _ hd).1, Drop.presenceOk_miss (h _ hd).2⟩
  unfold State.miss
  dsimp only
  refine State.DropsOk.reads (pollDone_frame _ l) (by decide) ?_
  split
  · exact State.DropsOk.reads (State.enterAlert_frame _ _ _) (by decide) h1
  · exact h1

theorem State.DropsOk.heard {s : State} (h : s.DropsOk) (l : Fin 4) : (s.heard l).DropsOk := by
  have h1 : (s.setDrop (s.polled l) { s.drop (s.polled l) with misses := 0, present := true }).DropsOk :=
    h.setDrop fun hd => ⟨(h _ hd).1, by simp [Drop.presenceOk]⟩
  unfold State.heard
  dsimp only
  refine State.DropsOk.reads (pollDone_frame _ l) (by decide) ?_
  split
  · exact h1.redraw _
  · exact h1

theorem State.DropsOk.carried : Carried State.DropsOk where
  link := State.DropsOk.reads.link (by decide)
  cold := State.DropsOk.reads.coldKeeping (by decide) fun _ => State.dropsOk_cold rfl
  slot s d r hs := hs.setDrop fun hd => hs d hd
  owner _ _ _ _ _ hi _ hs := State.DropsOk.owner hi hs
  expire s n j := State.DropsOk.signals.expireHold n j
  window s d := State.DropsOk.signals.endWindow d
  rise s n := State.DropsOk.signals.rise n
  due s ns := State.DropsOk.reads.risesDue (by decide) ns
  tick s := State.DropsOk.reads.tick (by decide)
  poll s l _ hs := hs.beginPoll l
  turn s l w := State.DropsOk.reads (State.setLane_frame s l _) (by decide)
  miss s l hs := hs.miss l
  heard s l hs := hs.heard l

/-- Settles O58: a queue gains what its places hold and no more, and a miss, an answer and a restart set presence and misses
together. -/
theorem stepKeepsDrops : Obligations.StepKeepsDrops := fun s t hs he => State.DropsOk.carried.step s t hs he

end Sys2Proof.Machine

/-! PROOFS. The ticket table (R77, R78, R84, R116): an operation changes tickets number for number, takes tickets away, or makes
one with a fresh number while a slot is free; and the obligation O55. -/

namespace Sys2Proof.Machine

namespace State.TicketsOk
variable {s t : State}

theorem reads : Reads [.tickets, .ticketCounter] State.TicketsOk := by
  intro ps s t f hd hs
  unfold State.TicketsOk
  rw [f.tickets (hd _ (by simp)), f.ticketCounter (hd _ (by simp))]
  exact hs

theorem like (h : s.TicketsOk) {ps : List Part} (hl : TicketsLike s t) (f : SameBut ps s t) (hd : Part.ticketCounter ∉ ps) :
    t.TicketsOk :=
  hl.ticketsOk (f.ticketCounter hd) h

/-- Tickets taken away leave the law as it is. -/
theorem sublist (h : s.TicketsOk) (hsub : t.tickets.Sublist s.tickets) (hc : t.ticketCounter = s.ticketCounter) : t.TicketsOk := by
  obtain ⟨hkeys, hlen, hcounter, hall⟩ := h
  exact ⟨hkeys.sublist (hsub.map _), hsub.length_le.trans hlen, hc ▸ hcounter, fun e he => hall e (hsub.subset he)⟩

theorem removeTab (h : s.TicketsOk) (n : Nat) : (s.removeTab n).TicketsOk :=
  h.sublist List.filter_sublist rfl

theorem retireCheck (h : s.TicketsOk) (n : Nat) : (s.retireCheck n).TicketsOk := by
  unfold State.retireCheck
  split
  · exact h
  · split
    · exact h.removeTab n
    · exact h

theorem editTicket (h : s.TicketsOk) (n : Nat) (f : Ticket → Ticket) (hf : ∀ k, LikeEntry (n, k) (n, f k)) :
    (s.editTicket n f).TicketsOk :=
  h.like (TicketsLike.edit s n f hf) (State.editTicket_frame s n f) (by decide)

theorem editTab (h : s.TicketsOk) (n : Nat) (f : Tab → Tab) : (s.editTab n f).TicketsOk :=
  reads (State.editTab_frame s n f) (by decide) h

theorem setTab (h : s.TicketsOk) (n : Nat) (x : Tab) : (s.setTab n x).TicketsOk :=
  reads (State.setTab_frame s n x) (by decide) h

theorem setStation (h : s.TicketsOk) (d : Nat) (x : Station) : (s.setStation d x).TicketsOk :=
  reads (State.setStation_frame s d x) (by decide) h

theorem takeOut (h : s.TicketsOk) (n d : Nat) : (s.takeOut n d).TicketsOk :=
  h.like (takeOut_like s n d) (State.takeOut_frame s n d) (by decide)

theorem fillLive (h : s.TicketsOk) (d : Nat) : (s.fillLive d).TicketsOk :=
  h.like (fillLive_like s d) (State.fillLive_frame s d) (by decide)

theorem syncScreen (h : s.TicketsOk) (d : Nat) (before : List Nat) (b : Option Nat) : (s.syncScreen d before b).TicketsOk :=
  h.like (syncScreen_like s d before b) (State.syncScreen_frame s d before b) (by decide)

theorem fireAll (h : s.TicketsOk) (ns : List Nat) : (s.fireAll ns).TicketsOk :=
  h.like (fireAll_like s ns) (State.fireAll_frame s ns) (by decide)

theorem killTicket (h : s.TicketsOk) (n : Nat) : (s.killTicket n).TicketsOk :=
  h.like (killTicket_like s n) (State.killTicket_frame s n) (by decide)

theorem sendBack (h : s.TicketsOk) (d n : Nat) : (State.sendBack d s n).TicketsOk :=
  h.like (sendBack_like d s n) (sendBack_frame d s n) (by decide)

theorem killAndRestore (h : s.TicketsOk) (n : Nat) : (s.killAndRestore n).TicketsOk := by
  unfold State.killAndRestore
  split
  · exact h
  · exact reads (State.restoreTicket_frame _ _) (by decide) (h.killTicket n)

/-! ### Tickets made (R78, R84) -/

/-- A ticket made while a slot is free takes a number that none has, and at most sixteen lines. -/
theorem makeTicket (h : s.TicketsOk) (tab : Nat) (rush : Bool) (r : Run) (hfree : s.tickets.length < Config.ticketSlots)
    (hr : r.lines.length ≤ Config.ticketLines) : (State.makeTicket tab rush s r).TicketsOk := by
  obtain ⟨hkeys, -, hcounter, hall⟩ := h
  have hused : (s.tickets.map (·.1)).length < Config.maxTicketNumber := by
    rw [List.length_map]
    exact hfree.trans (by decide)
  obtain ⟨hrange, hfresh, -⟩ := firstFree_spec (s.tickets.map (·.1)) Config.maxTicketNumber hused s.ticketCounter hcounter
  have hnext : ∀ n, 1 ≤ n ∧ n ≤ Config.maxTicketNumber →
      1 ≤ (if n = Config.maxTicketNumber then 1 else n + 1) ∧ (if n = Config.maxTicketNumber then 1 else n + 1) ≤ Config.maxTicketNumber := by
    intro n hn
    split <;> omega
  refine ⟨?_, ?_, hnext _ hrange, ?_⟩
  · simp only [State.makeTicket, List.map_append, List.map_cons, List.map_nil]
    exact List.nodup_append.mpr ⟨hkeys, List.nodup_singleton _, fun a ha b hb hab => by
      obtain rfl := List.mem_singleton.mp hb
      exact hfresh (hab ▸ ha)⟩
  · simpa [State.makeTicket] using hfree
  · intro e he
    simp only [State.makeTicket, List.mem_append, List.mem_singleton] at he
    rcases he with he | rfl
    · exact hall e he
    · exact ⟨hrange, by simpa using hr, Nat.zero_le _⟩

theorem makeTickets (h : s.TicketsOk) (tab : Nat) (rush : Bool) (runs : List Run)
    (hfree : s.tickets.length + runs.length ≤ Config.ticketSlots) (hr : ∀ r ∈ runs, r.lines.length ≤ Config.ticketLines) :
    (runs.foldl (State.makeTicket tab rush) s).TicketsOk := by
  induction runs generalizing s with
  | nil => exact h
  | cons r runs ih =>
    simp only [List.length_cons] at hfree
    refine ih (h.makeTicket tab rush r (by omega) (hr r (by simp))) ?_ fun x hx => hr x (by simp [hx])
    simp only [State.makeTicket, List.length_append, List.length_singleton]
    omega

theorem sendTab {n : Nat} {x : Tab} {hold rush : Bool} {made : List Nat} {lost : Nat} (h : s.TicketsOk)
    (hd : s.sendTab n x hold rush = .done t made lost) : t.TicketsOk := by
  unfold State.sendTab at hd
  dsimp only at hd
  split at hd
  · cases hd
  · rename_i hfree
    cases hd
    have hframe := SameBut.foldl (State.loseRoute_frame n) (groupOf (s.gather x) .lost) s
    have h1 := reads hframe (by decide) h
    have h2 := h1.makeTickets n rush (runsFrom (s.gather x) [] (s.gather x))
      (by rw [hframe.tickets (by decide)]; simp only [State.freeTickets] at hfree; have := h.2.1; omega)
      fun r hr => (run_lines _ r hr).1
    split
    · exact h2
    · exact h2.fireAll _

theorem autoSend (h : s.TicketsOk) (n : Nat) (x : Tab) : (s.autoSend n x).TicketsOk := by
  unfold State.autoSend
  split
  · exact h
  · split
    · exact reads (State.enterAlert_frame _ _ _) (by decide) h
    · rename_i hd
      exact h.sendTab hd

/-! ### The owners that change tickets -/

theorem sendRequest (h : s.TicketsOk) (tab : Nat) (hold rush : Bool) : (sendRequest tab hold rush s).1.TicketsOk := by
  unfold Machine.sendRequest sendOf
  repeat' split
  all_goals try exact h
  · exact State.TicketsOk.retireCheck (h.sendTab ‹_›) tab
  · exact h.sendTab ‹_›

theorem fireRequest (h : s.TicketsOk) (tab : Nat) : (fireRequest tab s).1.TicketsOk := by
  unfold Machine.fireRequest
  split
  · exact h
  · exact h.fireAll _

theorem killRequest (h : s.TicketsOk) (n : Nat) : (killRequest n s).1.TicketsOk := by
  unfold Machine.killRequest
  repeat' split
  all_goals try exact h
  exact ((reads (State.restoreTicket_frame _ _) (by decide) (h.killTicket n)).editTab _ _).retireCheck _

/-- A mark on a line leaves a ticket's lines as many as they were. -/
theorem voidOnTicket (h : s.TicketsOk) (n ix : Nat) : (s.voidOnTicket n ix).TicketsOk := by
  unfold State.voidOnTicket
  split
  · exact h
  · have h1 := h.editTicket n (fun k => { k with refs := k.refs.map fun r => if r.index = ix then { r with voided := true } else r })
      fun k => ⟨rfl, rfl, by simp, by simp⟩
    dsimp only
    split
    · exact (h1.killTicket n).retireCheck _
    · split
      · exact reads (State.post_frame _ _ _) (by decide) h1
      · exact h1

theorem voidLine (h : s.TicketsOk) (tab rev index : Nat) : (voidLine tab rev index s).1.TicketsOk := by
  unfold Machine.voidLine
  split
  · exact h
  · unfold voidLineOf
    split
    · exact h
    · rename_i l _
      have h1 : State.TicketsOk (if s.voidRestores l then s.restore l else s) := by
        split
        · exact reads (State.restore_frame s l) (by decide) h
        · exact h
      dsimp only
      split
      · exact (h1.setTab _ _).voidOnTicket _ _
      · exact h1.setTab _ _

theorem closeEmpty (h : s.TicketsOk) (tab rev : Nat) : (closeEmpty tab rev s).1.TicketsOk := by
  unfold Machine.closeEmpty
  split
  · exact h
  · split
    · exact h.removeTab tab
    · exact h

/-- A ticket of a merged tab keeps its number, its age and as many lines. -/
theorem mergeTicket_like (a : Tab) (tabB first : Nat) (k : Ticket) :
    (mergeTicket a tabB first k).refs.length = k.refs.length ∧ (mergeTicket a tabB first k).age = k.age := by
  simp [mergeTicket]

theorem mergeInto (h : s.TicketsOk) (tabA tabB : Nat) (a b : Tab) : (mergeInto tabA tabB a b s).TicketsOk := by
  refine State.TicketsOk.removeTab (State.TicketsOk.setTab ?_ _ _) _
  obtain ⟨hkeys, hlen, hcounter, hall⟩ := h
  have hfst : ∀ e : Nat × Ticket, (if e.2.tab = tabA then (e.1, mergeTicket a tabB b.nextIndex e.2) else e).1 = e.1 := by
    intro e
    split <;> rfl
  refine ⟨?_, ?_, hcounter, ?_⟩
  · rw [List.map_map, List.map_congr_left (f := Prod.fst ∘ _) (g := Prod.fst) fun e _ => hfst e]
    exact hkeys.sublist (List.filter_sublist.map _)
  · rw [List.length_map]
    exact (List.length_filter_le _ _).trans hlen
  · intro e he
    obtain ⟨e0, he0, rfl⟩ := List.mem_map.mp he
    obtain ⟨hn, hrefs, hage⟩ := hall e0 (List.mem_filter.mp he0).1
    split
    · obtain ⟨hl, ha⟩ := mergeTicket_like a tabB b.nextIndex e0.2
      exact ⟨hn, hl ▸ hrefs, ha ▸ hage⟩
    · exact ⟨hn, hrefs, hage⟩

theorem firstNewIndex (h : s.TicketsOk) (a b : Tab) : (firstNewIndex a b s).1.TicketsOk := by
  unfold Machine.firstNewIndex
  split <;> exact h

theorem mergeTabs (h : s.TicketsOk) (tabA revA tabB revB : Nat) : (mergeTabs tabA revA tabB revB s).1.TicketsOk := by
  unfold Machine.mergeTabs
  repeat' split
  all_goals try exact h
  exact (h.firstNewIndex _ _).mergeInto _ _ _ _

theorem bumpTicket (h : s.TicketsOk) (d n : Nat) (k : Ticket) : (bumpTicket d n k s).TicketsOk := by
  have h1 : State.TicketsOk (((s.takeOut n d).editTicket n fun k => { k with state := .bumped }).stageLines k .ready) :=
    ((h.takeOut n d).editTicket n (fun k => { k with state := .bumped }) fun k => LikeEntry.refl (n, k)).editTab _ _
  exact State.TicketsOk.syncScreen (State.TicketsOk.fillLive
    (reads (State.notify_frame _ _ _) (by decide) (h1.setStation _ _)) _) _ _ _

theorem bumpRequest (h : s.TicketsOk) (d n : Nat) : (bumpRequest d n s).1.TicketsOk := by
  unfold Machine.bumpRequest
  split
  · exact h
  · dsimp only
    split
    · exact ((h.bumpTicket d n _).retireCheck _).retireCheck _
    · exact (h.bumpTicket d n _).retireCheck _

theorem makeRoom (h : s.TicketsOk) (d : Nat) : (s.makeRoom d).TicketsOk := by
  unfold State.makeRoom
  dsimp only
  split
  · split
    · exact h.sendBack d _
    · exact h
  · exact h

theorem recallTicket (h : s.TicketsOk) (d n : Nat) (k : Ticket) : (recallTicket d n k s).TicketsOk := by
  have h1 := fun x y => ((h.setStation d x).makeRoom d).setStation d y
  have h2 := fun x y => (h1 x y).editTicket n
    (fun k => { k with state := .live, front := true, age := 0, level := 0, firstShown := none })
    fun k => ⟨rfl, rfl, rfl, Nat.zero_le _⟩
  unfold Machine.recallTicket
  exact State.TicketsOk.syncScreen (reads (State.notify_frame _ _ _) (by decide) ((h2 _ _).editTab _ _)) _ _ _

theorem recallRequest (h : s.TicketsOk) (d : Nat) : (recallRequest d s).1.TicketsOk := by
  unfold Machine.recallRequest
  repeat' split
  all_goals try exact h
  exact h.recallTicket _ _ _

theorem relimit (h : s.TicketsOk) (d old : Nat) : (s.relimit d old).TicketsOk := by
  unfold State.relimit
  dsimp only
  split
  · exact h.fillLive d
  · split
    · exact Reads.foldl (fun _ n hs => hs.sendBack d n) _ s h
    · exact h

theorem loadStation (h : s.TicketsOk) (d depth limit crew fallback prep interval : Nat) :
    (loadStation d depth limit crew fallback prep interval s).1.TicketsOk := by
  unfold Machine.loadStation
  split
  · exact h
  · exact ((h.setStation d _).relimit d _).syncScreen _ _ _

theorem settle (h : s.TicketsOk) (n : Nat) (x : Tab) : (s.settle n x).TicketsOk :=
  ((h.setTab n _).autoSend n _).retireCheck n

theorem tenderCommit (h : s.TicketsOk) (src tab share kind tendered tip : Nat) :
    (tenderCommit src tab share kind tendered tip s).1.TicketsOk := by
  unfold Machine.tenderCommit
  repeat' split
  all_goals try exact h
  unfold acceptTender
  have h1 := fun x c => reads (credit_frame _ src c) (by decide)
    (reads (State.setHold_frame (s.setTab tab x) src none) (by decide) (h.setTab tab x))
  dsimp only
  split
  · exact (h1 _ _).settle tab _
  · exact h1 _ _

theorem writeOff (h : s.TicketsOk) (n : Nat) : (writeOff n s).1.TicketsOk := by
  unfold Machine.writeOff
  repeat' split
  all_goals try exact h
  rename_i t _ _ _
  have h1 : State.TicketsOk ((unsentLines t).foldl State.restore { s with writeOffTotal := addCapped s.writeOffTotal (writeOffAmount t).1 }) :=
    reads (SameBut.foldl State.restore_frame _ _) (by decide) h
  exact State.TicketsOk.retireCheck (Reads.foldl (fun _ n hs => hs.killAndRestore n) _ _ (h1.setTab _ _)) _

theorem endDay (h : s.TicketsOk) : (endDay s).1.TicketsOk := by
  obtain ⟨hkeys, hlen, -, hall⟩ := h
  exact reads (changePeriod_frame s.dayClear .prep) (by decide) ⟨hkeys, hlen, by simp [State.dayClear], hall⟩

theorem owner {i : Instr} {k : ReqKind} {src : Nat} {o : State → State × Reply}
    (hi : ownerOf i = some (k, src, o)) (h : s.TicketsOk) : (o s).1.TicketsOk := by
  by_cases hrecall : ∃ n, i = .recall n
  · obtain ⟨n, rfl⟩ := hrecall
    cases hi
    exact h.recallRequest _
  cases i with
  | voidLine => cases hi; exact h.voidLine _ _ _
  | closeEmpty => cases hi; exact h.closeEmpty _ _
  | mergeTabs => cases hi; exact h.mergeTabs _ _ _ _
  | send => cases hi; exact h.sendRequest _ _ _
  | fire => cases hi; exact h.fireRequest _
  | killTicket => cases hi; exact h.killRequest _
  | bump => cases hi; exact h.bumpRequest _ _
  | loadStation => cases hi; exact h.loadStation _ _ _ _ _ _ _
  | tenderCommit => cases hi; exact h.tenderCommit _ _ _ _ _ _
  | writeOff => cases hi; exact h.writeOff _
  | endDay => cases hi; exact h.endDay
  | _ => exact reads.owner hi (by simp [ownerParts] at hrecall ⊢) h

/-! ### The part's own events that change tickets -/

theorem rise (h : s.TicketsOk) (n : Nat) : (s.rise n).TicketsOk := by
  unfold State.rise
  split
  · exact h
  · rename_i k _
    have h1 := reads (State.enterAlert_frame _ .overdue k.station) (by decide)
      (h.editTicket n (fun k => { k with level := k.level + 1 }) fun k => LikeEntry.refl (n, k))
    dsimp only
    split
    · exact reads (State.post_frame _ _ _) (by decide) h1
    · exact h1

theorem endWindow (h : s.TicketsOk) (d : Nat) : (s.endWindow d).TicketsOk := by
  unfold State.endWindow
  repeat' split
  · exact h
  · exact (h.setStation d _).retireCheck _
  · exact h.setStation d _
  · exact h

/-- The age of a ticket stops at 65,535 (R116). -/
theorem aged_like (n : Nat) (k : Ticket) : LikeEntry (n, k) (n, k.aged) := by
  unfold Ticket.aged
  split
  · exact ⟨rfl, rfl, rfl, le_max_of_le_left (Nat.min_le_left _ _)⟩
  · exact LikeEntry.refl _

theorem tick (h : s.TicketsOk) : s.tick.TicketsOk := by
  have hl : TicketsLike s s.tick :=
    List.forall₂_map_right_iff.mpr (List.forall₂_same.mpr fun e _ => State.TicketsOk.aged_like e.1 e.2)
  exact hl.ticketsOk rfl h

theorem carried : Carried State.TicketsOk where
  link := reads.link (by decide)
  cold := reads.coldKeeping (by decide) fun _ => by simp [State.TicketsOk, State.cold]
  slot s d r := reads (State.setDrop_frame s d _) (by decide)
  owner _ _ _ _ _ hi _ hs := owner hi hs
  expire s n j := reads (expireHold_frame s n j) (by decide)
  window s d hs := hs.endWindow d
  rise s n hs := hs.rise n
  due s ns := reads.risesDue (by decide) ns
  tick s hs := hs.tick
  poll s l _ := reads (beginPoll_frame s l) (by decide)
  turn s l w := reads (State.setLane_frame s l _) (by decide)
  miss s l := reads (miss_frame s l) (by decide)
  heard s l := reads (heard_frame s l) (by decide)

end State.TicketsOk

/-- Settles O55: a send makes tickets only while slots are free, each with a number no ticket has; everything else changes
tickets number for number or takes them away. -/
theorem stepKeepsTicketTable : Obligations.StepKeepsTicketTable := fun s t hs he => State.TicketsOk.carried.step s t hs he

end Sys2Proof.Machine

/-! PROOFS. The ranges (R11, R18, R26, R92, R102, R145, R156, R161, R166): settings, stations, money and menu, each a law of its
own fields that every operation keeps; and the obligation O59. -/

namespace Sys2Proof.Machine

/-! ### Settings -/

theorem clamp_bounds {lo hi : Nat} (h : lo ≤ hi) (v : Nat) : lo ≤ clamp lo hi v ∧ clamp lo hi v ≤ hi := by
  unfold clamp
  split
  · exact ⟨Nat.le_refl _, h⟩
  · split <;> omega

theorem Lane.inRange_iff (x : Lane) :
    x.inRange = true ↔ (2 ≤ x.window ∧ x.window ≤ 20) ∧ x.passCount ≤ 15 ∧ 1 ≤ x.position ∧ x.position ≤ 8 := by
  simp only [Lane.inRange, Bool.and_eq_true, decide_eq_true_eq]
  tauto

namespace State.SettingsOk
variable {s t : State}

theorem reads : Reads [.clock, .holdTime, .taxRates, .lanes] State.SettingsOk := by
  intro ps s t f hd ⟨hc, hh, ht, hl⟩
  refine ⟨f.clock (hd _ (by simp)) ▸ hc, f.holdTime (hd _ (by simp)) ▸ hh, fun c => ?_, fun l => ?_⟩
  · rw [State.taxRate_of (f.taxRates (hd _ (by simp)))]
    exact ht c
  · rw [State.lane_of (f.lanes (hd _ (by simp)))]
    exact hl l

theorem cold (cfg : Bool) : (State.cold cfg).SettingsOk := by
  refine ⟨by simp [State.cold], by simp [State.cold], fun c => by simp [State.taxRate, State.cold], fun l => ?_⟩
  revert cfg l
  decide

theorem setLane (h : s.SettingsOk) {l : Fin 4} {x : Lane} (hx : x.inRange = true) : (s.setLane l x).SettingsOk := by
  obtain ⟨hc, hh, ht, hl⟩ := h
  refine ⟨hc, hh, ht, fun m => ?_⟩
  rcases eq_or_ne m l with rfl | hne
  · rw [State.lane_setLane_same]
    exact hx
  · rw [State.lane_setLane_other s l m x hne]
    exact hl m

/-- A lane restarted stands at position 1 of a pass of count 0, its window as it was. -/
theorem restartLane (h : s.SettingsOk) (l : Fin 4) : (s.restartLane l).SettingsOk := by
  have h1 : ((s.clearDrops l).clearViews l).SettingsOk :=
    reads (clearViews_frame _ l) (by decide) (reads (clearDrops_frame s l) (by decide) h)
  obtain ⟨hw, -, -⟩ := (Lane.inRange_iff _).mp (h1.2.2.2 l)
  exact h1.setLane ((Lane.inRange_iff _).mpr ⟨hw, Nat.zero_le _, Nat.le_refl 1, by simp⟩)

theorem configLane (h : s.SettingsOk) (l : Fin 4) (rate : Rate) (window : Nat) : (s.configLane l rate window).SettingsOk := by
  obtain ⟨-, hp, hq⟩ := (Lane.inRange_iff _).mp (h.2.2.2 l)
  have h1 := h.setLane (l := l) (x := { s.lane l with rate := rate, window := clamp 2 20 window })
    ((Lane.inRange_iff _).mpr ⟨clamp_bounds (by decide) window, hp, hq⟩)
  unfold State.configLane
  dsimp only
  split
  · exact h1
  · exact h1.restartLane l

theorem configFour (h : s.SettingsOk) (ra rb rc rd : Rate) (a b c d : Nat) :
    ((((s.configLane 0 ra a).configLane 1 rb b).configLane 2 rc c).configLane 3 rd d).SettingsOk :=
  (((h.configLane 0 ra a).configLane 1 rb b).configLane 2 rc c).configLane 3 rd d

theorem setConfig (h : s.SettingsOk) (hold : Nat) (w : Vector (Nat × Nat) 4) : (setConfig hold w s).1.SettingsOk := by
  unfold Machine.setConfig
  split
  · dsimp only [setConfigOf]
    refine configFour ?_ _ _ _ _ _ _ _ _
    obtain ⟨hc, -, ht, hl⟩ := h
    exact ⟨hc, clamp_bounds (by decide) hold, ht, hl⟩
  · exact h

theorem setLaneRole (h : s.SettingsOk) (lane role : Nat) : (setLaneRole lane role s).1.SettingsOk := by
  unfold Machine.setLaneRole
  split
  · rename_i l r _ _
    dsimp only
    split
    · exact h
    · exact (h.setLane (x := { s.lane l with role := r }) (h.2.2.2 l)).restartLane l
  · exact h

theorem laneRestart (h : s.SettingsOk) (lane : Nat) : (laneRestart lane s).1.SettingsOk := by
  unfold Machine.laneRestart
  split
  · exact h
  · exact h.restartLane _

theorem loadTax (h : s.SettingsOk) (cls rate : Nat) : (loadTax cls rate s).1.SettingsOk := by
  unfold Machine.loadTax
  split
  · exact h
  · obtain ⟨hc, hh, ht, hl⟩ := h
    refine ⟨hc, hh, fun c => ?_, hl⟩
    simp only [State.taxRate, State.setTaxRate, Fin.getElem_fin, Vector.getElem_set]
    split
    · exact Nat.min_le_left _ _
    · exact ht c

theorem owner {i : Instr} {k : ReqKind} {src : Nat} {o : State → State × Reply}
    (hi : ownerOf i = some (k, src, o)) (h : s.SettingsOk) : (o s).1.SettingsOk := by
  cases i with
  | setConfig => cases hi; exact h.setConfig _ _
  | setLaneRole => cases hi; exact h.setLaneRole _ _
  | laneRestart => cases hi; exact h.laneRestart _
  | loadTax => cases hi; exact h.loadTax _ _
  | _ => exact reads.owner hi (by simp [ownerParts]) h

theorem nextAddress_bounds {pass pos : Nat} (hp : pass ≤ 15) (hq : 1 ≤ pos) :
    (nextAddress pass pos).1 ≤ 15 ∧ 1 ≤ (nextAddress pass pos).2 ∧ (nextAddress pass pos).2 ≤ 8 := by
  unfold nextAddress
  split <;> dsimp only <;> omega

theorem pollDone (h : s.SettingsOk) (l : Fin 4) : (s.pollDone l).SettingsOk := by
  obtain ⟨hw, hp, hq⟩ := (Lane.inRange_iff _).mp (h.2.2.2 l)
  exact h.setLane ((Lane.inRange_iff _).mpr ⟨hw, nextAddress_bounds hp hq.1⟩)

theorem beginPoll (h : s.SettingsOk) (l : Fin 4) : (s.beginPoll l).SettingsOk := by
  obtain ⟨hw, hp, hq, hr⟩ := (Lane.inRange_iff _).mp (h.2.2.2 l)
  obtain ⟨hpos, hpass, -⟩ := State.seek_spec s l 136 _ _ hp hq hr (Or.inr (by omega))
  exact (reads (State.setDrop_frame s _ _) (by decide) h).setLane ((Lane.inRange_iff _).mpr ⟨hw, hpass, hpos⟩)

theorem miss (h : s.SettingsOk) (l : Fin 4) : (s.miss l).SettingsOk := by
  have h1 := fun x => reads (State.setDrop_frame s (s.polled l) x) (by decide) h
  unfold State.miss
  dsimp only
  split
  · exact (reads (State.enterAlert_frame _ _ _) (by decide) (h1 _)).pollDone l
  · exact (h1 _).pollDone l

theorem heard (h : s.SettingsOk) (l : Fin 4) : (s.heard l).SettingsOk := by
  have h1 := fun x => reads (State.setDrop_frame s (s.polled l) x) (by decide) h
  unfold State.heard
  dsimp only
  split
  · exact (reads (State.redraw_frame _ _) (by decide) (h1 _)).pollDone l
  · exact (h1 _).pollDone l

theorem tick (h : s.SettingsOk) : s.tick.SettingsOk :=
  ⟨Nat.mod_lt _ (by decide), h.2⟩

theorem carried : Carried State.SettingsOk where
  link := reads.link (by decide)
  cold := reads.coldKeeping (by decide) cold
  slot s d r := reads (State.setDrop_frame s d _) (by decide)
  owner _ _ _ _ _ hi _ hs := owner hi hs
  expire s n j := reads (expireHold_frame s n j) (by decide)
  window s d := reads (endWindow_frame s d) (by decide)
  rise s n := reads (rise_frame s n) (by decide)
  due s ns := reads.risesDue (by decide) ns
  tick s hs := hs.tick
  poll s l _ hs := hs.beginPoll l
  turn s l w hs := hs.setLane (hs.2.2.2 l)
  miss s l hs := hs.miss l
  heard s l hs := hs.heard l

end State.SettingsOk

/-! ### Stations -/

/-- A station's settings in range and its LIVE queue within its load limit. -/
def Station.Fits (x : Station) : Prop := x.inRange = true ∧ x.liveFits = true

theorem Station.fits_cold : Station.cold.Fits := by
  unfold Station.Fits
  decide

theorem Station.liveFits_iff (x : Station) : x.liveFits = true ↔ x.live.length ≤ x.limit := by simp [Station.liveFits]

/-- A LIVE queue that is no longer, or not longer than the limit, fits. -/
theorem Station.Fits.withLists {x : Station} (h : x.Fits) {live : List Nat} (waiting : List Nat)
    (hl : live.length ≤ x.live.length ∨ live.length ≤ x.limit) : Station.Fits { x with live := live, waiting := waiting } := by
  obtain ⟨hr, hf⟩ := h
  have hf := (Station.liveFits_iff x).mp hf
  exact ⟨hr, (Station.liveFits_iff _).mpr (hl.elim (fun h => h.trans hf) id)⟩

theorem Station.inRange_iff (x : Station) :
    x.inRange = true ↔ (1 ≤ x.depth ∧ x.depth ≤ 8) ∧ (1 ≤ x.limit ∧ x.limit ≤ 32) ∧ (1 ≤ x.crew ∧ x.crew ≤ 8) ∧
      dropCode x.fallback ≤ 32 ∧ (30 ≤ x.defaultPrep ∧ x.defaultPrep ≤ 1800) ∧ (60 ≤ x.interval ∧ x.interval ≤ 600) ∧
      x.p16 ≤ 28800 := by
  simp only [Station.inRange, Bool.and_eq_true, decide_eq_true_eq, and_assoc]

theorem Station.limit_pos {x : Station} (h : x.inRange = true) : 1 ≤ x.limit := by
  obtain ⟨-, ⟨hpos, -⟩, -⟩ := (Station.inRange_iff x).mp h
  exact hpos

/-- A sample of at most 1,800 s leaves P16 in its range (R110). -/
theorem Station.inRange_smoothed {x : Station} (h : x.inRange = true) {sample : Nat} (hs : sample ≤ 1800) (b : Option LastBumped) :
    Station.inRange { x with p16 := smoothed x.p16 sample, lastBumped := b } = true := by
  obtain ⟨hd, hl, hc, hf, hp, hi, hq⟩ := (Station.inRange_iff x).mp h
  refine (Station.inRange_iff _).mpr ⟨hd, hl, hc, hf, hp, hi, ?_⟩
  show (7 * x.p16 + 16 * sample + 4) / 8 ≤ 28800
  omega

theorem Station.inRange_dayCleared {x : Station} (h : x.inRange = true) : x.dayCleared.inRange = true := by
  obtain ⟨hd, hl, hc, hf, hp, hi, -⟩ := (Station.inRange_iff x).mp h
  refine (Station.inRange_iff _).mpr ⟨hd, hl, hc, hf, hp, hi, ?_⟩
  show x.defaultPrep * 16 ≤ 28800
  omega

theorem dropCode_dropField (n : Nat) : dropCode (dropField n) = n := by
  unfold dropField
  split
  · simp [dropCode, *]
  · rfl

/-- The settings of a LOAD-STATION are clamped into their ranges (R103, R105). -/
theorem Station.inRange_loaded {x : Station} (h : x.inRange = true) (depth limit crew fallback prep interval : Nat) :
    (x.loaded depth limit crew fallback prep interval).inRange = true := by
  obtain ⟨-, -, -, -, -, -, hq⟩ := (Station.inRange_iff x).mp h
  have hp := clamp_bounds (lo := 30) (hi := 1800) (by decide) prep
  refine (Station.inRange_iff _).mpr ⟨clamp_bounds (by decide) depth, clamp_bounds (by decide) limit, clamp_bounds (by decide) crew,
    ?_, hp, clamp_bounds (by decide) interval, ?_⟩
  · exact (dropCode_dropField _).trans_le (Nat.min_le_left _ _)
  · show (if clamp 30 1800 prep = x.defaultPrep then x.p16 else clamp 30 1800 prep * 16) ≤ 28800
    split <;> omega

namespace State.StationsOk
variable {s t : State}

theorem reads : Reads [.stations] State.StationsOk := by
  intro ps s t f hd hs d hdrop
  rw [State.station_of (f.stations (hd _ (by simp)))]
  exact hs d hdrop

/-- A number that is no drop has the settings of a cold start. -/
theorem fits (h : s.StationsOk) (d : Nat) : (s.station d).Fits := by
  rcases hd : isDrop d with _ | _
  · rw [State.station_noDrop s d hd]
    exact Station.fits_cold
  · exact h d hd

theorem setStation (h : s.StationsOk) {d : Nat} {x : Station} (hx : x.Fits) : (s.setStation d x).StationsOk := by
  intro e he
  rcases eq_or_ne e d with rfl | hne
  · rw [State.station_setStation_same s e x he]
    exact hx
  · rw [State.station_setStation_other s d e x hne]
    exact h e he

theorem clearRefs (h : s.StationsOk) (pick : Nat → Bool) : (s.clearRefs pick).StationsOk := by
  intro d hd
  have hfit := h d hd
  rw [State.clearRefs_station]
  split
  · split <;> exact hfit
  · exact hfit

/-- Admission stops at the load limit (R93). -/
theorem fillLive (h : s.StationsOk) (d : Nat) : (s.fillLive d).StationsOk := by
  obtain ⟨hother, j, live, -, hst, hlen, -⟩ := State.fillLive_spec s d
  intro e he
  rcases eq_or_ne e d with rfl | hne
  · rw [hst]
    exact (h.fits e).withLists _ hlen
  · rw [hother e hne]
    exact h e he

theorem takeOut (h : s.StationsOk) (n d : Nat) : (s.takeOut n d).StationsOk :=
  reads (State.editTicket_frame _ _ _) (by decide) (h.setStation ((h.fits d).withLists _ (Or.inl (List.length_filter_le _ _))))

theorem fireOne (h : s.StationsOk) (n : Nat) : (s.fireOne n).StationsOk := by
  unfold State.fireOne
  split
  · exact h
  · rename_i k _
    have h1 := reads (State.editTicket_frame s n fun k => k.firedAt s.clock s.fireCount) (by decide) h
    exact (setStation (s := { s.editTicket n fun k => k.firedAt s.clock s.fireCount with fireCount := s.fireCount + 1 }) h1
      ((h.fits k.station).withLists _ (Or.inl (Nat.le_refl _)))).fillLive _

theorem fireAll (h : s.StationsOk) (ns : List Nat) : (s.fireAll ns).StationsOk :=
  reads (SameBut.foldl (fun st d => State.syncScreen_frame st d _ _) _ _) (by decide)
    (Reads.foldl (fun _ n hs => hs.fireOne n) ns s h)

theorem killTicket (h : s.StationsOk) (n : Nat) : (s.killTicket n).StationsOk := by
  unfold State.killTicket
  split
  · exact h
  · rename_i k _
    have h1 := reads (State.editTicket_frame _ n fun k => { k with state := .killed }) (by decide) (h.takeOut n k.station)
    refine reads (State.syncScreen_frame _ _ _ _) (by decide) (State.StationsOk.clearRefs ?_ _)
    split
    · exact h1.fillLive _
    · exact h1

theorem removeTab (h : s.StationsOk) (n : Nat) : (s.removeTab n).StationsOk := h.clearRefs _

theorem retireCheck (h : s.StationsOk) (n : Nat) : (s.retireCheck n).StationsOk := by
  unfold State.retireCheck
  repeat' split
  · exact h
  · exact h.removeTab n
  · exact h

theorem killAndRestore (h : s.StationsOk) (n : Nat) : (s.killAndRestore n).StationsOk := by
  unfold State.killAndRestore
  split
  · exact h
  · exact reads (State.restoreTicket_frame _ _) (by decide) (h.killTicket n)

theorem sendTab {n : Nat} {x : Tab} {hold rush : Bool} {made : List Nat} {lost : Nat} (h : s.StationsOk)
    (hd : s.sendTab n x hold rush = .done t made lost) : t.StationsOk := by
  unfold State.sendTab at hd
  dsimp only at hd
  split at hd
  · cases hd
  · cases hd
    have h1 := reads (SameBut.foldl (State.makeTicket_frame n rush) (runsFrom (s.gather x) [] (s.gather x)) _) (by decide)
      (reads (SameBut.foldl (State.loseRoute_frame n) (groupOf (s.gather x) .lost) s) (by decide) h)
    split
    · exact h1
    · exact h1.fireAll _

theorem autoSend (h : s.StationsOk) (n : Nat) (x : Tab) : (s.autoSend n x).StationsOk := by
  unfold State.autoSend
  split
  · exact h
  · split
    · exact reads (State.enterAlert_frame _ _ _) (by decide) h
    · rename_i hd
      exact h.sendTab hd

/-! ### The owners that change stations -/

theorem sendRequest (h : s.StationsOk) (tab : Nat) (hold rush : Bool) : (sendRequest tab hold rush s).1.StationsOk := by
  unfold Machine.sendRequest sendOf
  repeat' split
  all_goals try exact h
  · exact State.StationsOk.retireCheck (h.sendTab ‹_›) tab
  · exact h.sendTab ‹_›

theorem fireRequest (h : s.StationsOk) (tab : Nat) : (fireRequest tab s).1.StationsOk := by
  unfold Machine.fireRequest
  split
  · exact h
  · exact h.fireAll _

theorem killRequest (h : s.StationsOk) (n : Nat) : (killRequest n s).1.StationsOk := by
  unfold Machine.killRequest
  repeat' split
  all_goals try exact h
  exact State.StationsOk.retireCheck (reads (State.editTab_frame _ _ _) (by decide)
    (reads (State.restoreTicket_frame _ _) (by decide) (h.killTicket n))) _

theorem voidOnTicket (h : s.StationsOk) (n ix : Nat) : (s.voidOnTicket n ix).StationsOk := by
  unfold State.voidOnTicket
  split
  · exact h
  · have h1 := fun f => reads (State.editTicket_frame s n f) (by decide) h
    dsimp only
    split
    · exact ((h1 _).killTicket n).retireCheck _
    · split
      · exact reads (State.post_frame _ _ _) (by decide) (h1 _)
      · exact h1 _

theorem voidLine (h : s.StationsOk) (tab rev index : Nat) : (voidLine tab rev index s).1.StationsOk := by
  unfold Machine.voidLine
  split
  · exact h
  · unfold voidLineOf
    split
    · exact h
    · rename_i l _
      have h1 : State.StationsOk (if s.voidRestores l then s.restore l else s) := by
        split
        · exact reads (State.restore_frame s l) (by decide) h
        · exact h
      have h2 := fun x => reads (State.setTab_frame _ tab x) (by decide) h1
      dsimp only
      split
      · exact (h2 _).voidOnTicket _ _
      · exact h2 _

theorem closeEmpty (h : s.StationsOk) (tab rev : Nat) : (closeEmpty tab rev s).1.StationsOk := by
  unfold Machine.closeEmpty
  repeat' split
  · exact h
  · exact h.removeTab tab
  · exact h

theorem mergeInto (h : s.StationsOk) (tabA tabB : Nat) (a b : Tab) : (mergeInto tabA tabB a b s).StationsOk := by
  unfold Machine.mergeInto
  dsimp only
  refine State.StationsOk.removeTab (reads (State.setTab_frame _ _ _) (by decide) ?_) _
  exact h.clearRefs _

theorem firstNewIndex (h : s.StationsOk) (a b : Tab) : (firstNewIndex a b s).1.StationsOk := by
  unfold Machine.firstNewIndex
  split <;> exact h

theorem mergeTabs (h : s.StationsOk) (tabA revA tabB revB : Nat) : (mergeTabs tabA revA tabB revB s).1.StationsOk := by
  unfold Machine.mergeTabs
  repeat' split
  all_goals try exact h
  exact (h.firstNewIndex _ _).mergeInto _ _ _ _

theorem sampled (h : s.StationsOk) (d : Nat) {sample : Nat} (hs : sample ≤ 1800) (b : Option LastBumped) :
    (s.setStation d { s.station d with p16 := smoothed (s.station d).p16 sample, lastBumped := b }).StationsOk :=
  h.setStation ⟨Station.inRange_smoothed (h.fits d).1 hs b, (h.fits d).2⟩

theorem bumpTicket (h : s.StationsOk) (d n : Nat) (k : Ticket) : (bumpTicket d n k s).StationsOk := by
  have h1 : State.StationsOk (((s.takeOut n d).editTicket n fun k => { k with state := .bumped }).stageLines k .ready) :=
    reads (State.editTab_frame _ _ _) (by decide) (reads (State.editTicket_frame _ _ _) (by decide) (h.takeOut n d))
  have h2 := h1.sampled d (sample := s.sampleOf k) (Nat.min_le_left 1800 _) (some ⟨n, clockAfter s.clock Config.recallWindow⟩)
  have h3 := fun e x => reads (State.notify_frame _ e x) (by decide) h2
  exact reads (State.syncScreen_frame _ _ _ _) (by decide) ((h3 _ _).fillLive d)

theorem bumpRequest (h : s.StationsOk) (d n : Nat) : (bumpRequest d n s).1.StationsOk := by
  unfold Machine.bumpRequest
  split
  · exact h
  · dsimp only
    split
    · exact ((h.bumpTicket d n _).retireCheck _).retireCheck _
    · exact (h.bumpTicket d n _).retireCheck _

theorem sendBack (h : s.StationsOk) (d n : Nat) : (State.sendBack d s n).StationsOk :=
  reads (State.editTicket_frame _ _ _) (by decide) (h.setStation ((h.fits d).withLists _ (Or.inl (List.length_filter_le _ _))))

theorem makeRoom (h : s.StationsOk) (d : Nat) : (s.makeRoom d).StationsOk := by
  unfold State.makeRoom
  dsimp only
  split
  · split
    · exact h.sendBack d _
    · exact h
  · exact h

/-- The room a recall makes is one place at least (R114). -/
theorem makeRoom_room (h : s.StationsOk) {d : Nat} (hd : isDrop d = true) :
    ((s.makeRoom d).station d).live.length < ((s.makeRoom d).station d).limit := by
  obtain ⟨hr, hl⟩ := h.fits d
  have hl := (Station.liveFits_iff _).mp hl
  have hpos := Station.limit_pos hr
  unfold State.makeRoom
  dsimp only
  split
  · rename_i last hlast
    split
    · have hlt : ((s.station d).live.filter (· != last)).length < (s.station d).live.length :=
        List.length_filter_lt_length_iff_exists.mpr ⟨last, List.mem_of_getLast? hlast, by simp⟩
      simp only [State.sendBack, State.station_editTicket, State.station_setStation_same _ _ _ hd]
      omega
    · omega
  · rename_i hnone
    rw [List.getLast?_eq_none_iff.mp hnone]
    exact hpos

theorem recallTicket (h : s.StationsOk) (d n : Nat) (k : Ticket) : (recallTicket d n k s).StationsOk := by
  have h1 : State.StationsOk ((s.setStation d { s.station d with lastBumped := none }).makeRoom d) :=
    (h.setStation (x := { s.station d with lastBumped := none }) (h.fits d)).makeRoom d
  have h2 : State.StationsOk (((s.setStation d { s.station d with lastBumped := none }).makeRoom d).setStation d
      { ((s.setStation d { s.station d with lastBumped := none }).makeRoom d).station d with
        live := n :: (((s.setStation d { s.station d with lastBumped := none }).makeRoom d).station d).live }) := by
    rcases hd : isDrop d with _ | _
    · rw [State.setStation_noDrop _ _ _ hd]
      exact h1
    · exact h1.setStation ((h1.fits d).withLists _ (Or.inr
        ((h.setStation (x := { s.station d with lastBumped := none }) (h.fits d)).makeRoom_room hd)))
  exact reads (State.syncScreen_frame _ _ _ _) (by decide) (reads (State.notify_frame _ _ _) (by decide)
    (reads (State.editTab_frame _ _ _) (by decide) (reads (State.editTicket_frame _ _ _) (by decide) h2)))

theorem recallRequest (h : s.StationsOk) (d : Nat) : (recallRequest d s).1.StationsOk := by
  unfold Machine.recallRequest
  repeat' split
  all_goals try exact h
  exact h.recallTicket _ _ _

/-- The cut leaves of LIVE what stands before the limit (R104). -/
theorem cut_length (live : List Nat) (limit : Nat) (cut : List Nat) (hc : cut.Perm (live.drop limit)) :
    (live.filter fun x => !cut.contains x).length ≤ limit := by
  conv_lhs => rw [← List.take_append_drop limit live]
  have hnone : (live.drop limit).filter (fun x => !cut.contains x) = [] := by
    refine List.filter_eq_nil_iff.mpr fun x hx => ?_
    simpa using hc.mem_iff.mpr hx
  rw [List.filter_append, hnone, List.append_nil]
  exact (List.length_filter_le _ _).trans (List.length_take_le _ _)

/-- A station whose new settings are in range fits again once its lists follow the new limit (R104). -/
theorem relimit_loaded (h : s.StationsOk) {d : Nat} (hd : isDrop d = true) {x : Station} (hx : x.inRange = true)
    (hlive : x.live = (s.station d).live) : ((s.setStation d x).relimit d (s.station d).limit).StationsOk := by
  have hfit := (Station.liveFits_iff _).mp (h.fits d).2
  have hst : (s.setStation d x).station d = x := State.station_setStation_same s d x hd
  unfold State.relimit
  dsimp only
  rw [hst]
  split
  · refine (h.setStation ⟨hx, (Station.liveFits_iff x).mpr ?_⟩).fillLive d
    rw [hlive]
    omega
  · split
    · obtain ⟨-, hother, hself⟩ := State.sendBack_fold d hd ((s.setStation d x).inFireOrder (x.live.drop x.limit)) (s.setStation d x)
      intro e he
      rcases eq_or_ne e d with rfl | hne
      · rw [hself, hst]
        exact ⟨hx, (Station.liveFits_iff _).mpr (cut_length _ _ _ (State.inFireOrder_perm _ _))⟩
      · rw [hother e hne, State.station_setStation_other s d e x hne]
        exact h e he
    · refine h.setStation ⟨hx, (Station.liveFits_iff x).mpr ?_⟩
      rw [hlive]
      omega

theorem loadStation (h : s.StationsOk) (d depth limit crew fallback prep interval : Nat) :
    (loadStation d depth limit crew fallback prep interval s).1.StationsOk := by
  unfold Machine.loadStation
  split
  · exact h
  · rename_i hst
    have hd : isDrop d = true := by
      simp only [State.isStation, Bool.not_eq_false, Bool.and_eq_true] at hst
      exact hst.1
    exact reads (State.syncScreen_frame _ _ _ _) (by decide)
      (h.relimit_loaded hd (Station.inRange_loaded (h.fits d).1 depth limit crew fallback prep interval) rfl)

theorem settle (h : s.StationsOk) (n : Nat) (x : Tab) : (s.settle n x).StationsOk :=
  ((reads (State.setTab_frame s n _) (by decide) h).autoSend n _).retireCheck n

theorem tenderCommit (h : s.StationsOk) (src tab share kind tendered tip : Nat) :
    (tenderCommit src tab share kind tendered tip s).1.StationsOk := by
  unfold Machine.tenderCommit
  repeat' split
  all_goals try exact h
  unfold acceptTender
  have h1 := fun x c => reads (credit_frame _ src c) (by decide)
    (reads (State.setHold_frame (s.setTab tab x) src none) (by decide) (reads (State.setTab_frame s tab x) (by decide) h))
  dsimp only
  split
  · exact (h1 _ _).settle tab _
  · exact h1 _ _

theorem writeOff (h : s.StationsOk) (n : Nat) : (writeOff n s).1.StationsOk := by
  unfold Machine.writeOff
  repeat' split
  all_goals try exact h
  rename_i t _ _ _
  have h1 : State.StationsOk ((unsentLines t).foldl State.restore { s with writeOffTotal := addCapped s.writeOffTotal (writeOffAmount t).1 }) :=
    reads (SameBut.foldl State.restore_frame _ _) (by decide) h
  exact State.StationsOk.retireCheck (Reads.foldl (fun _ n hs => hs.killAndRestore n) _ _
    (reads (State.setTab_frame _ n _) (by decide) h1)) _

theorem endDay (h : s.StationsOk) : (endDay s).1.StationsOk := by
  refine reads (changePeriod_frame s.dayClear .prep) (by decide) fun d hd => ?_
  obtain ⟨hr, hl⟩ := h d hd
  have hst : s.dayClear.station d = (s.station d).dayCleared := State.station_map s _ d hd
  rw [hst]
  exact ⟨Station.inRange_dayCleared hr, hl⟩

theorem owner {i : Instr} {k : ReqKind} {src : Nat} {o : State → State × Reply}
    (hi : ownerOf i = some (k, src, o)) (h : s.StationsOk) : (o s).1.StationsOk := by
  by_cases hrecall : ∃ n, i = .recall n
  · obtain ⟨n, rfl⟩ := hrecall
    cases hi
    exact h.recallRequest _
  cases i with
  | voidLine => cases hi; exact h.voidLine _ _ _
  | closeEmpty => cases hi; exact h.closeEmpty _ _
  | mergeTabs => cases hi; exact h.mergeTabs _ _ _ _
  | send => cases hi; exact h.sendRequest _ _ _
  | fire => cases hi; exact h.fireRequest _
  | killTicket => cases hi; exact h.killRequest _
  | bump => cases hi; exact h.bumpRequest _ _
  | loadStation => cases hi; exact h.loadStation _ _ _ _ _ _ _
  | tenderCommit => cases hi; exact h.tenderCommit _ _ _ _ _ _
  | writeOff => cases hi; exact h.writeOff _
  | endDay => cases hi; exact h.endDay
  | _ => exact reads.owner hi (by simp [ownerParts] at hrecall ⊢) h

theorem endWindow (h : s.StationsOk) (d : Nat) : (s.endWindow d).StationsOk := by
  have h1 := h.setStation (d := d) (x := { s.station d with lastBumped := none }) (h.fits d)
  unfold State.endWindow
  repeat' split
  · exact h
  · exact h1.retireCheck _
  · exact h1
  · exact h

theorem cold (cfg : Bool) : (State.cold cfg).StationsOk := by
  intro d hd
  have : (State.cold cfg).station d = .cold := by simp [State.station, State.cold]
  rw [this]
  exact Station.fits_cold

theorem carried : Carried State.StationsOk where
  link := reads.link (by decide)
  cold := reads.coldKeeping (by decide) cold
  slot s d r := reads (State.setDrop_frame s d _) (by decide)
  owner _ _ _ _ _ hi _ hs := owner hi hs
  expire s n j := reads (expireHold_frame s n j) (by decide)
  window s d hs := hs.endWindow d
  rise s n := reads (rise_frame s n) (by decide)
  due s ns := reads.risesDue (by decide) ns
  tick s := reads.tick (by decide)
  poll s l _ := reads (beginPoll_frame s l) (by decide)
  turn s l w := reads (State.setLane_frame s l _) (by decide)
  miss s l := reads (miss_frame s l) (by decide)
  heard s l := reads (heard_frame s l) (by decide)

end State.StationsOk
end Sys2Proof.Machine

/-! PROOFS. Money and the menu within their ranges (R18, R27, R156, R157, R161), and the obligation O59 from the four laws. -/

namespace Sys2Proof.Machine

/-! ### Money -/

/-- Every count and amount of a drawer is at most 999,999,999. -/
def Drawer.Capped (d : Drawer) : Prop := ∀ v ∈ d.amounts, v ≤ Config.moneyCap

theorem Drawer.capped_zero : Drawer.zero.Capped := by
  unfold Drawer.Capped
  decide

/-- Each field of a drawer credited stops at the cap (R157). -/
theorem Drawer.capped_credited (d c : Drawer) : (d.credited c).Capped := by
  intro v hv
  simp only [Drawer.amounts, Drawer.credited, List.mem_cons, List.not_mem_nil, or_false] at hv
  rcases hv with rfl | rfl | rfl | rfl | rfl | rfl | rfl | rfl | rfl | rfl
  all_goals exact Nat.min_le_left _ _

namespace State.MoneyOk
variable {s t : State}

theorem reads : Reads [.drawers, .writeOffTotal] State.MoneyOk := by
  intro ps s t f hd ⟨hdr, hw⟩
  refine ⟨fun n => ?_, f.writeOffTotal (hd _ (by simp)) ▸ hw⟩
  rw [State.drawer_of (f.drawers (hd _ (by simp)))]
  exact hdr n

theorem setDrawer (h : s.MoneyOk) (n : Nat) {d : Drawer} (hd : d.Capped) : (s.setDrawer n d).MoneyOk := by
  refine ⟨fun m => ?_, h.2⟩
  simp only [State.drawer, State.setDrawer, Fin.getElem_fin, Vector.getElem_set]
  split
  · exact hd
  · exact h.1 m

theorem zeroed {s : State} (hd : s.drawers = .replicate 33 .zero) (hw : s.writeOffTotal = 0) : s.MoneyOk := by
  refine ⟨fun n => ?_, by simp [hw]⟩
  have : s.drawer n = .zero := by simp [State.drawer, hd]
  rw [this]
  exact Drawer.capped_zero

theorem credit (h : s.MoneyOk) (till : Nat) (c : Drawer) : (s.credit till c).MoneyOk := by
  have h1 := h.setDrawer till (Drawer.capped_credited (s.drawer till) c)
  unfold State.credit
  dsimp only
  split
  · exact reads (State.enterAlert_frame _ _ _) (by decide) h1
  · exact h1

theorem tenderCommit (h : s.MoneyOk) (src tab share kind tendered tip : Nat) :
    (tenderCommit src tab share kind tendered tip s).1.MoneyOk := by
  unfold Machine.tenderCommit
  repeat' split
  all_goals try exact h
  unfold acceptTender
  have h1 := fun x c => State.MoneyOk.credit (s := (s.setTab tab x).setHold src none)
    (reads (State.setHold_frame _ src none) (by decide) (reads (State.setTab_frame s tab x) (by decide) h)) src c
  dsimp only
  split
  · exact reads (settle_frame _ tab _) (by decide) (h1 _ _)
  · exact h1 _ _

theorem writeOff (h : s.MoneyOk) (n : Nat) : (writeOff n s).1.MoneyOk := by
  unfold Machine.writeOff
  repeat' split
  all_goals try exact h
  rename_i t _ _ _
  have h1 : State.MoneyOk { s with writeOffTotal := addCapped s.writeOffTotal (writeOffAmount t).1 } :=
    ⟨h.1, Nat.min_le_left _ _⟩
  have h2 := reads (State.setTab_frame _ n ({ t with settlement := t.settlement.map (List.map Share.writtenOff) }.settled true))
    (by decide) (reads (SameBut.foldl State.restore_frame (unsentLines t) _) (by decide) h1)
  exact reads (State.retireCheck_frame _ n) (by decide) (reads (SameBut.foldl killAndRestore_frame (s.unstarted n) _) (by decide) h2)

theorem closeDrawer (h : s.MoneyOk) (d : Nat) : (closeDrawer d s).1.MoneyOk := by
  unfold Machine.closeDrawer
  split
  · exact h
  · exact h.setDrawer d Drawer.capped_zero

theorem owner {i : Instr} {k : ReqKind} {src : Nat} {o : State → State × Reply}
    (hi : ownerOf i = some (k, src, o)) (h : s.MoneyOk) : (o s).1.MoneyOk := by
  cases i with
  | tenderCommit => cases hi; exact h.tenderCommit _ _ _ _ _ _
  | writeOff => cases hi; exact h.writeOff _
  | closeDrawer => cases hi; exact h.closeDrawer _
  | endDay => cases hi; exact reads (changePeriod_frame s.dayClear .prep) (by decide) (zeroed rfl rfl)
  | _ => exact reads.owner hi (by simp [ownerParts]) h

theorem carried : Carried State.MoneyOk where
  link := reads.link (by decide)
  cold := reads.coldKeeping (by decide) fun _ => zeroed rfl rfl
  slot s d r := reads (State.setDrop_frame s d _) (by decide)
  owner _ _ _ _ _ hi _ hs := owner hi hs
  expire s n j := reads (expireHold_frame s n j) (by decide)
  window s d := reads (endWindow_frame s d) (by decide)
  rise s n := reads (rise_frame s n) (by decide)
  due s ns := reads.risesDue (by decide) ns
  tick s := reads.tick (by decide)
  poll s l _ := reads (beginPoll_frame s l) (by decide)
  turn s l w := reads (State.setLane_frame s l _) (by decide)
  miss s l := reads (miss_frame s l) (by decide)
  heard s l := reads (heard_frame s l) (by decide)

end State.MoneyOk

/-! ### The menu -/

theorem Item.inRange_iff (i : Item) :
    i.inRange = true ↔ i.price ≤ 99999 ∧ i.cls ≤ 7 ∧ (30 ≤ i.prep ∧ i.prep ≤ 1800) ∧ dropCode i.route ≤ 32 ∧
      i.lowMark ≤ Config.maxStock ∧ i.stock.getD 0 ≤ Config.maxStock := by
  simp only [Item.inRange, Bool.and_eq_true, decide_eq_true_eq, and_assoc]

theorem Item.inRange_stock {i : Item} (h : i.inRange = true) {c : Option Nat} (hc : c.getD 0 ≤ Config.maxStock) :
    Item.inRange { i with stock := c } = true := by
  obtain ⟨hp, hcl, hpr, hr, hl, -⟩ := (Item.inRange_iff i).mp h
  exact (Item.inRange_iff _).mpr ⟨hp, hcl, hpr, hr, hl, hc⟩

/-- A count given back stops at 9,999 (R30). -/
theorem Item.inRange_given {i : Item} (h : i.inRange = true) (n : Nat) :
    Item.inRange { i with stock := i.stock.map fun c => min 9999 (c + n) } = true := by
  refine Item.inRange_stock h ?_
  cases i.stock with
  | none => exact Nat.zero_le _
  | some c => exact Nat.min_le_left _ _

theorem Item.inRange_taken {i : Item} (h : i.inRange = true) (n : Nat) :
    Item.inRange { i with stock := i.stock.map (· - n) } = true := by
  have hs := ((Item.inRange_iff i).mp h).2.2.2.2.2
  refine Item.inRange_stock h ?_
  cases hc : i.stock with
  | none => exact Nat.zero_le _
  | some c => exact (Nat.sub_le _ _).trans (by simpa [hc] using hs)

namespace State.MenuOk
variable {s t : State}

theorem reads : Reads [.items] State.MenuOk := by
  intro ps s t f hd hs x
  rw [State.item_of (f.items (hd _ (by simp)))]
  exact hs x

/-- Records changed each by a map that keeps its ranges. -/
theorem mapped (h : s.MenuOk) (c : Nat → Prop) [DecidablePred c] (g : Nat → Item → Item)
    (hg : ∀ x i, i.inRange = true → (g x i).inRange = true)
    (ht : ∀ x, t.item x = if c x then (s.item x).map (g x) else s.item x) : t.MenuOk := by
  intro x i hi
  rw [ht x] at hi
  split at hi
  · obtain ⟨j, hj, rfl⟩ := Option.map_eq_some_iff.mp hi
    exact hg x j (h x j hj)
  · exact h x i hi

theorem setItem (h : s.MenuOk) (n : Nat) {x : Item} (hx : x.inRange = true) : (s.setItem n x).MenuOk := by
  intro m i hi
  rcases eq_or_ne m n with rfl | hne
  · rw [State.item_setItem_same s m x (State.isItemNumber_of_item hi)] at hi
    cases hi
    exact hx
  · rw [State.item_setItem_other s n m x hne] at hi
    exact h m i hi

theorem eraseItem (h : s.MenuOk) (n : Nat) : State.MenuOk { s with items := s.items.erase n } := by
  intro m i hi
  rcases eq_or_ne m n with rfl | hne
  · rw [State.item_eraseItem_same] at hi
    cases hi
  · rw [State.item_eraseItem_other s hne] at hi
    exact h m i hi

theorem restore (h : s.MenuOk) (l : Line) : (s.restore l).MenuOk :=
  h.mapped (· ∈ l.item :: l.mods) _ (fun _ _ hi => Item.inRange_given hi _) (State.restore_item s l)

theorem restoreTicket (h : s.MenuOk) (k : Ticket) : (s.restoreTicket k).MenuOk := Reads.foldl (fun _ l hs => hs.restore l) _ s h

theorem reserve (h : s.MenuOk) (item : Nat) (mods : List Nat) (q : Nat) : (s.reserve item mods q).MenuOk :=
  h.mapped (· ∈ item :: mods) _ (fun _ _ hi => Item.inRange_taken hi _) (State.reserve_item s item mods q)

theorem killAndRestore (h : s.MenuOk) (n : Nat) : (s.killAndRestore n).MenuOk := by
  unfold State.killAndRestore
  split
  · exact h
  · exact State.MenuOk.restoreTicket (reads (State.killTicket_frame s n) (by decide) h) _

/-! ### The owners that change items -/

theorem loadItem (h : s.MenuOk) (item kind : Nat) (name : List Byte) (price cls route prep restricted low : Nat) :
    (loadItem item kind name price cls route prep restricted low s).1.MenuOk := by
  by_cases hok : isItemNumber item = true ∧ kind ≤ 2 ∧ loadFieldsOk name price cls route prep restricted = true
  · obtain ⟨hn, hk, hf⟩ := hok
    obtain ⟨-, hp, hc, hr, hpr, -⟩ := (loadFieldsOk_iff _ _ _ _ _ _).mp hf
    by_cases h0 : kind = 0
    · rw [h0, loadItem_clears low s hn hf]
      exact h.eraseItem item
    · rw [loadItem_stores low s hn h0 hk hf]
      refine h.setItem item ((Item.inRange_iff _).mpr ⟨hp, hc, hpr, (dropCode_dropField route).trans_le hr, Nat.min_le_left _ _, ?_⟩)
      cases hi : s.item item with
      | none => exact Nat.zero_le _
      | some i => exact ((Item.inRange_iff i).mp (h item i hi)).2.2.2.2.2
  · rw [loadItem_refused low s hok]
    exact h

theorem setPrice (h : s.MenuOk) (item price : Nat) : (setPrice item price s).1.MenuOk := by
  unfold Machine.setPrice
  split
  · exact h
  · rename_i i hi
    split
    · exact h
    · rename_i hp
      obtain ⟨-, hrest⟩ := (Item.inRange_iff i).mp (h item i hi)
      exact h.setItem item ((Item.inRange_iff _).mpr ⟨Nat.not_lt.mp hp, hrest⟩)

theorem setStock (h : s.MenuOk) (item : Nat) (stock : Option Nat) : (setStock item stock s).1.MenuOk := by
  unfold Machine.setStock
  split
  · exact h
  · rename_i i hi
    refine h.setItem item (Item.inRange_stock (h item i hi) ?_)
    cases stock with
    | none => exact Nat.zero_le _
    | some c => exact Nat.min_le_left _ _

theorem markSoldOut (h : s.MenuOk) (item : Nat) : (markSoldOut item s).1.MenuOk := by
  unfold Machine.markSoldOut
  split
  · exact h
  · rename_i i hi
    exact reads (State.notifyPresent_frame _ _) (by decide) (reads (State.enterAlert_frame _ _ _) (by decide)
      (h.setItem item (Item.inRange_stock (h item i hi) (Nat.zero_le _))))

theorem addLine (h : s.MenuOk) (tab rev item qty : Nat) (mods : List Nat) : (addLine tab rev item qty mods s).1.MenuOk := by
  unfold Machine.addLine
  split
  · exact h
  · unfold addLineTo
    dsimp only
    repeat' split
    all_goals try exact h
    · exact reads (State.enterAlert_frame _ _ _) (by decide) h
    · exact reads (State.poolCheck_frame _) (by decide) (reads (State.setTab_frame _ _ _) (by decide) (h.reserve item mods qty))

theorem voidLine (h : s.MenuOk) (tab rev index : Nat) : (voidLine tab rev index s).1.MenuOk := by
  unfold Machine.voidLine
  split
  · exact h
  · unfold voidLineOf
    split
    · exact h
    · rename_i l _
      have h1 : State.MenuOk (if s.voidRestores l then s.restore l else s) := by
        split
        · exact h.restore l
        · exact h
      have h2 := fun x => reads (State.setTab_frame _ tab x) (by decide) h1
      dsimp only
      split
      · exact reads (voidOnTicket_frame _ _ _) (by decide) (h2 _)
      · exact h2 _

theorem killRequest (h : s.MenuOk) (n : Nat) : (killRequest n s).1.MenuOk := by
  unfold Machine.killRequest
  repeat' split
  all_goals try exact h
  have h1 := fun k => State.MenuOk.restoreTicket (reads (State.killTicket_frame s n) (by decide) h) k
  exact reads (State.retireCheck_frame _ _) (by decide) (reads (State.editTab_frame _ _ _) (by decide) (h1 _))

theorem writeOff (h : s.MenuOk) (n : Nat) : (writeOff n s).1.MenuOk := by
  unfold Machine.writeOff
  repeat' split
  all_goals try exact h
  rename_i t _ _ _
  have h1 : State.MenuOk { s with writeOffTotal := addCapped s.writeOffTotal (writeOffAmount t).1 } := h
  have h2 := reads (State.setTab_frame _ n ({ t with settlement := t.settlement.map (List.map Share.writtenOff) }.settled true))
    (by decide) (Reads.foldl (P := State.MenuOk) (fun _ l hs => State.MenuOk.restore hs l) (unsentLines t) _ h1)
  exact reads (State.retireCheck_frame _ n) (by decide) 
    (Reads.foldl (P := State.MenuOk) (fun _ m hs => State.MenuOk.killAndRestore hs m) (s.unstarted n) _ h2)

theorem owner {i : Instr} {k : ReqKind} {src : Nat} {o : State → State × Reply}
    (hi : ownerOf i = some (k, src, o)) (h : s.MenuOk) : (o s).1.MenuOk := by
  cases i with
  | loadItem => cases hi; exact h.loadItem _ _ _ _ _ _ _ _ _
  | setPrice => cases hi; exact h.setPrice _ _
  | setStock => cases hi; exact h.setStock _ _
  | markSoldOut => cases hi; exact h.markSoldOut _
  | addLine => cases hi; exact h.addLine _ _ _ _ _
  | voidLine => cases hi; exact h.voidLine _ _ _
  | killTicket => cases hi; exact h.killRequest _
  | writeOff => cases hi; exact h.writeOff _
  | _ => exact reads.owner hi (by simp [ownerParts]) h

theorem cold (cfg : Bool) : (State.cold cfg).MenuOk := by
  intro x i hi
  simp [State.item, State.cold] at hi

theorem carried : Carried State.MenuOk where
  link := reads.link (by decide)
  cold := reads.coldKeeping (by decide) cold
  slot s d r := reads (State.setDrop_frame s d _) (by decide)
  owner _ _ _ _ _ hi _ hs := owner hi hs
  expire s n j := reads (expireHold_frame s n j) (by decide)
  window s d := reads (endWindow_frame s d) (by decide)
  rise s n := reads (rise_frame s n) (by decide)
  due s ns := reads.risesDue (by decide) ns
  tick s := reads.tick (by decide)
  poll s l _ := reads (beginPoll_frame s l) (by decide)
  turn s l w := reads (State.setLane_frame s l _) (by decide)
  miss s l := reads (miss_frame s l) (by decide)
  heard s l := reads (heard_frame s l) (by decide)

end State.MenuOk

/-- Settles O59: the four laws speak of fields of their own, and each is carried by every step. -/
theorem stepKeepsRanges : Obligations.StepKeepsRanges := fun s t ⟨hset, hst, hmoney, hmenu⟩ he =>
  ⟨State.SettingsOk.carried.step s t hset he, State.StationsOk.carried.step s t hst he,
    State.MoneyOk.carried.step s t hmoney he, State.MenuOk.carried.step s t hmenu he⟩

end Sys2Proof.Machine

/-! PROOFS. The work that touches tabs only through the stages of their lines and through retirement (chapters 5, 6 and 8), for
every law of the tab table at once; and no tab in PREP or CLOSED (R9, R10). -/

namespace Sys2Proof.Machine

/-! ### Work on tabs -/

/-- A law kept by what leaves the tab table, its counter and the holds alone, by a change of a tab's lines that keeps their
indices, and by the retirement check. -/
structure TabWork (P : State → Prop) : Prop where
  frame : Reads [.tabs, .tabCounter, .holds] P
  lines : ∀ s n pick f, (∀ l : Line, (f l).index = l.index) → P s → P (State.editTab s n fun t => t.editLines pick f)
  retire : ∀ s n, P s → P (State.retireCheck s n)

namespace TabWork
variable {P : State → Prop} (h : TabWork P) {s : State}
include h

theorem killTicket (n : Nat) (hs : P s) : P (s.killTicket n) := h.frame (State.killTicket_frame s n) (by decide) hs

theorem killAndRestore (n : Nat) (hs : P s) : P (s.killAndRestore n) := h.frame (killAndRestore_frame s n) (by decide) hs

theorem voidOnTicket (n ix : Nat) (hs : P s) : P (s.voidOnTicket n ix) := by
  unfold State.voidOnTicket
  split
  · exact hs
  · have h1 := fun f => h.frame (State.editTicket_frame s n f) (by decide) hs
    dsimp only
    split
    · exact h.retire _ _ (h.killTicket n (h1 _))
    · split
      · exact h.frame (State.post_frame _ _ _) (by decide) (h1 _)
      · exact h1 _

theorem loseRoute (n : Nat) (l : Line) (hs : P s) : P (State.loseRoute n s l) :=
  h.frame (State.enterAlert_frame _ _ _) (by decide)
    (h.lines s n (· == l.index) (fun l => { l with stage := .none }) (fun _ => rfl) hs)

theorem makeTicket (n : Nat) (rush : Bool) (r : Run) (hs : P s) : P (State.makeTicket n rush s r) := by
  have h1 := fun m => h.lines s n ((r.lines.map Line.index).contains) (fun l => { l with stage := .sent, ticket := some m })
    (fun _ => rfl) hs
  exact h.frame (ps := [.tickets, .ticketCounter])
    (by constructor <;> intro hn <;> first | rfl | exact absurd (by simp) hn) (by decide) (h1 _)

theorem sendTab {n : Nat} {t : Tab} {hold rush : Bool} {u : State} {made : List Nat} {lost : Nat} (hs : P s)
    (hd : s.sendTab n t hold rush = .done u made lost) : P u := by
  unfold State.sendTab at hd
  dsimp only at hd
  split at hd
  · cases hd
  · cases hd
    have h1 := Reads.foldl (fun st l => h.loseRoute (s := st) n l) (groupOf (s.gather t) .lost) s hs
    have h2 := Reads.foldl (fun st r => h.makeTicket (s := st) n rush r) (runsFrom (s.gather t) [] (s.gather t)) _ h1
    split
    · exact h2
    · exact h.frame (State.fireAll_frame _ _) (by decide) h2

theorem autoSend (n : Nat) (t : Tab) (hs : P s) : P (s.autoSend n t) := by
  unfold State.autoSend
  split
  · exact hs
  · split
    · exact h.frame (State.enterAlert_frame _ _ _) (by decide) hs
    · rename_i hd
      exact h.sendTab hs hd

theorem sendRequest (tab : Nat) (hold rush : Bool) (hs : P s) : P (sendRequest tab hold rush s).1 := by
  unfold Machine.sendRequest sendOf
  repeat' split
  all_goals try exact hs
  · exact h.retire _ tab (h.sendTab hs ‹_›)
  · exact h.sendTab hs ‹_›

theorem killRequest (n : Nat) (hs : P s) : P (killRequest n s).1 := by
  unfold Machine.killRequest
  repeat' split
  all_goals try exact hs
  rename_i k _ _
  have h1 := h.frame (State.restoreTicket_frame _ k) (by decide) (h.killTicket n hs)
  exact h.retire _ _ (h.lines _ k.tab k.names (fun l => { l with stage := .unsent, ticket := none }) (fun _ => rfl) h1)

theorem stageLines (k : Ticket) (st : Stage) (hs : P s) : P (s.stageLines k st) :=
  h.lines s k.tab k.names (fun l => { l with stage := st }) (fun _ => rfl) hs

theorem bumpTicket (d n : Nat) (k : Ticket) (hs : P s) : P (bumpTicket d n k s) := by
  have h1 := h.stageLines k .ready (h.frame (State.editTicket_frame _ n fun k => { k with state := .bumped }) (by decide)
    (h.frame (State.takeOut_frame s n d) (by decide) hs))
  have h2 := fun x => h.frame (State.setStation_frame _ d x) (by decide) h1
  exact h.frame (State.syncScreen_frame _ _ _ _) (by decide) (h.frame (State.fillLive_frame _ d) (by decide)
    (h.frame (State.notify_frame _ _ _) (by decide) (h2 _)))

theorem bumpRequest (d n : Nat) (hs : P s) : P (bumpRequest d n s).1 := by
  unfold Machine.bumpRequest
  split
  · exact hs
  · have h1 := fun k => h.bumpTicket d n k hs
    dsimp only
    split
    · exact h.retire _ _ (h.retire _ _ (h1 _))
    · exact h.retire _ _ (h1 _)

theorem recallTicket (d n : Nat) (k : Ticket) (hs : P s) : P (recallTicket d n k s) := by
  have h1 := fun x y => h.frame (State.setStation_frame _ d y) (by decide)
    (h.frame (makeRoom_frame _ d) (by decide) (h.frame (State.setStation_frame s d x) (by decide) hs))
  have h2 := fun x y => h.stageLines k .sent (h.frame (State.editTicket_frame _ n
    fun k => { k with state := .live, front := true, age := 0, level := 0, firstShown := none }) (by decide) (h1 x y))
  exact h.frame (State.syncScreen_frame _ _ _ _) (by decide) (h.frame (State.notify_frame _ _ _) (by decide) (h2 _ _))

theorem recallRequest (d : Nat) (hs : P s) : P (recallRequest d s).1 := by
  unfold Machine.recallRequest
  repeat' split
  all_goals try exact hs
  exact h.recallTicket _ _ _ hs

theorem endWindow (d : Nat) (hs : P s) : P (s.endWindow d) := by
  have h1 := fun x => h.frame (State.setStation_frame s d x) (by decide) hs
  unfold State.endWindow
  repeat' split
  · exact hs
  · exact h.retire _ _ (h1 _)
  · exact h1 _
  · exact hs

end TabWork

/-! ### No tab -/

/-- No tab stands in the tab table. -/
def State.NoTabs (s : State) : Prop := s.tabs = []

namespace State.NoTabs
variable {s : State}

theorem reads : Reads [.tabs] State.NoTabs := fun _ _ _ f hd hs => (f.tabs (hd _ (by simp))).trans hs

theorem tab (h : s.NoTabs) (n : Nat) : s.tab n = none := by
  simp [State.tab, show s.tabs = [] from h]

theorem find (h : s.NoTabs) (n : Nat) : s.tabs.find n = none := by
  simp [show s.tabs = [] from h]

theorem retireCheck (h : s.NoTabs) (n : Nat) : s.retireCheck n = s := by
  simp [State.retireCheck, h.find n]

theorem work : TabWork State.NoTabs where
  frame := reads.mono (by decide)
  lines s n pick f _ hs := by
    show s.tabs.edit n (fun t => t.editLines pick f) = []
    rw [show s.tabs = [] from hs]
    rfl
  retire s n hs := by
    rw [hs.retireCheck n]
    exact hs

/-- An edit of a tab is answered NO-TAB. -/
theorem editChecks (h : s.NoTabs) (tab rev : Nat) (gate : Tab → Option Reply) :
    s.editChecks tab rev gate = .error (refuse .noTab []) := by
  simp [State.editChecks, h.tab tab]

theorem tenderChecks (h : s.NoTabs) (tab share : Nat) (f : Tab → List Field) :
    s.tenderChecks tab share f = .error (refuse .noTab []) := by
  simp [State.tenderChecks, h.tab tab]

/-- Only OPEN-TAB brings a tab into an empty table. -/
theorem owner {i : Instr} {k : ReqKind} {src : Nat} {o : State → State × Reply} (hi : ownerOf i = some (k, src, o))
    (hk : k ≠ .openTab) (h : s.NoTabs) : (o s).1.NoTabs := by
  by_cases hrecall : ∃ n, i = .recall n
  · obtain ⟨n, rfl⟩ := hrecall
    cases hi
    exact work.recallRequest _ h
  cases i with
  | openTab => cases hi; exact absurd rfl hk
  | addLine => cases hi; simpa [Machine.addLine, h.editChecks] using h
  | voidLine => cases hi; simpa [Machine.voidLine, h.editChecks] using h
  | setLabel => cases hi; simpa [Machine.setLabel, h.editChecks] using h
  | setService => cases hi; simpa [Machine.setService, h.editChecks] using h
  | closeEmpty => cases hi; simpa [Machine.closeEmpty, h.editChecks] using h
  | split => cases hi; simpa [Machine.splitRequest, h.editChecks] using h
  | assign => cases hi; simpa [Machine.assignRequest, h.editChecks] using h
  | unsplit => cases hi; simpa [Machine.unsplitRequest, h.editChecks] using h
  | mergeTabs => cases hi; simpa [Machine.mergeTabs, h.tab] using h
  | tenderBegin => cases hi; simpa [Machine.tenderBegin, h.tenderChecks] using h
  | tenderCancel => cases hi; simpa [Machine.tenderCancel, h.tenderChecks] using h
  | tenderCommit => cases hi; simpa [Machine.tenderCommit, h.tenderChecks] using h
  | writeOff => cases hi; simpa [Machine.writeOff, h.tab] using h
  | send => cases hi; exact work.sendRequest _ _ _ h
  | killTicket => cases hi; exact work.killRequest _ h
  | bump => cases hi; exact work.bumpRequest _ _ h
  | _ => exact reads.owner hi (by simp [ownerParts] at hrecall ⊢) h

theorem expireHold (h : s.NoTabs) (n j : Nat) : (s.expireHold n j).NoTabs := by
  simpa [State.expireHold, h.find n] using h

end State.NoTabs

/-! ### No tab in PREP or CLOSED -/

namespace State.HoursOk
variable {s t : State}

theorem reads : Reads [.period, .tabs] State.HoursOk := by
  intro ps s t f hd hs
  unfold State.HoursOk
  rw [f.period (hd _ (by simp)), f.tabs (hd _ (by simp))]
  exact hs

/-- What keeps the period and brings no tab into an empty table keeps the law. -/
theorem of_noTabs (h : s.HoursOk) (hp : t.period = s.period) (ht : s.NoTabs → t.NoTabs) : t.HoursOk :=
  fun hc => ht (h (hp ▸ hc))

theorem of_open (h : t.period ≠ .prep ∧ t.period ≠ .closed) : t.HoursOk := fun hc => absurd hc (not_or.mpr h)

/-- SET-PERIOD goes to CLOSED only with no tab, and never to PREP (R2, R3). -/
theorem setPeriod (h : s.HoursOk) (target : Nat) : (setPeriod target s).1.HoursOk := by
  unfold Machine.setPeriod
  repeat' split
  all_goals try exact h
  rename_i p _ hmove hbusy
  have hf := State.notifyPresent_frame { s with period := p } (.period p s.clock)
  intro hc
  rw [State.changePeriod, hf.period (by decide)] at hc
  rw [State.changePeriod, hf.tabs (by decide)]
  rcases hc with hc | hc
  · have hp : p = .prep := hc
    rw [hp] at hmove
    exact absurd (by cases s.period <;> rfl) hmove
  · exact Classical.not_not.mp fun ht => hbusy ⟨hc, ht⟩

/-- END-DAY is taken in CLOSED alone, where no tab stands. -/
theorem endDay (h : s.HoursOk) (hc : s.period = .closed) :
    (endDay s).1.HoursOk :=
  fun _ => (endDay_frame s).tabs (by decide) ▸ h (Or.inr hc)

theorem owner {i : Instr} {k : ReqKind} {src : Nat} {o : State → State × Reply} (hi : ownerOf i = some (k, src, o))
    (ha : s.admits k src = true) (h : s.HoursOk) : (o s).1.HoursOk := by
  have hgate := ((State.admits_iff s k src).mp ha).2.2
  have hkeep : Part.period ∉ ownerParts i → k ≠ .openTab → (o s).1.HoursOk := fun hp hk =>
    h.of_noTabs ((owner_frame hi s).period hp) (State.NoTabs.owner hi hk)
  cases i with
  | openTab =>
    cases hi
    refine of_open ?_
    rw [(openTab_frame _ _ _ s).period (by decide)]
    constructor <;> intro hp <;> simp [gateOpen, hp] at hgate
  | setPeriod => cases hi; exact h.setPeriod _
  | endDay =>
    cases hi
    exact h.endDay (by simpa [gateOpen] using hgate)
  | _ => exact hkeep (by simp [ownerParts]) (by rintro rfl; simp [ownerOf] at hi)

theorem carried : Carried State.HoursOk where
  link := reads.link (by decide)
  cold := reads.coldKeeping (by decide) fun _ _ => rfl
  slot s d r := reads (State.setDrop_frame s d _) (by decide)
  owner _ _ _ _ _ hi ha hs := owner hi ha hs
  expire s n j hs := hs.of_noTabs ((expireHold_frame s n j).period (by decide)) fun h => h.expireHold n j
  window s d hs := hs.of_noTabs ((endWindow_frame s d).period (by decide)) (State.NoTabs.work.endWindow d)
  rise s n := reads (rise_frame s n) (by decide)
  due s ns := reads.risesDue (by decide) ns
  tick s := reads.tick (by decide)
  poll s l _ := reads (beginPoll_frame s l) (by decide)
  turn s l w := reads (State.setLane_frame s l _) (by decide)
  miss s l := reads (miss_frame s l) (by decide)
  heard s l := reads (heard_frame s l) (by decide)

end State.HoursOk
end Sys2Proof.Machine

/-! PROOFS. The tab table (R36, R37, R39, R122): how much of the line pool and of the settlement table a change takes, what keeps
a tab sound, and the obligation O54. -/

namespace Sys2Proof.Machine

/-! ### Sums over a table -/

/-- What a record stored at a number that has none adds to a sum. -/
theorem Table.sum_put_fresh (m : Table Tab) (f : Tab → Nat) (n : Nat) (x : Tab) (hn : m.find n = none) :
    ((m.put n x).map fun e => f e.2).sum = (m.map fun e => f e.2).sum + f x := by
  induction m with
  | nil => simp [Table.put]
  | cons e m ih =>
    obtain ⟨k, v⟩ := e
    have hk : n ≠ k := by
      rintro rfl
      simp [Table.find_cons] at hn
    have hm : Table.find m n = none := by simpa [Table.find_cons, hk.symm] using hn
    simp only [Table.put, hk, if_false]
    split
    · simp only [List.map_cons, List.sum_cons]
      omega
    · simp only [List.map_cons, List.sum_cons, ih hm]
      omega

/-- What a record taken away takes from a sum. -/
theorem Table.sum_erase (m : Table Tab) (f : Tab → Nat) (n : Nat) (x : Tab) (hn : m.find n = some x) :
    ((m.erase n).map fun e => f e.2).sum + f x ≤ (m.map fun e => f e.2).sum := by
  induction m with
  | nil => simp at hn
  | cons e m ih =>
    obtain ⟨k, v⟩ := e
    have hsub : ((Table.erase m n).map fun e => f e.2).sum ≤ (m.map fun e => f e.2).sum :=
      (List.filter_sublist.map _).sum_le_sum fun _ _ => Nat.zero_le _
    rcases eq_or_ne k n with rfl | hk
    · obtain rfl : v = x := by simpa [Table.find_cons] using hn
      simp only [Table.erase, List.filter_cons, bne_self_eq_false, Bool.false_eq_true, if_false, List.map_cons, List.sum_cons]
      unfold Table.erase at hsub
      omega
    · have hih := ih (by simpa [Table.find_cons, hk] using hn)
      have hb : (k != n) = true := by simpa using hk
      simp only [Table.erase, List.filter_cons, hb, if_true, List.map_cons, List.sum_cons]
      unfold Table.erase at hih
      omega

/-! ### A sound tab -/

/-- How many settlement records a tab holds: one, or none. -/
def Tab.records (t : Tab) : Nat := t.settlement.isSome.toNat

theorem State.settlements_eq_sum (m : Table Tab) : m.countP (fun e => e.2.settlement.isSome) = (m.map fun e => e.2.records).sum := by
  induction m with
  | nil => rfl
  | cons e m ih =>
    rw [List.countP_cons, ih, List.map_cons, List.sum_cons, Nat.add_comm]
    cases h : e.2.settlement.isSome <;> simp [Tab.records, h]

/-- A tab with the indices of its lines, its next line index, its state and its settlement record as they were is as sound. -/
theorem Tab.Sound.of_same {t u : Tab} (h : t.Sound) (hi : u.lines.map Line.index = t.lines.map Line.index)
    (hn : u.nextIndex = t.nextIndex) (hs : u.state = t.state) (hr : u.settlement.isSome = t.settlement.isSome)
    (hc : u.shareCount = t.shareCount) : u.Sound := by
  obtain ⟨horder, hbelow, hnext, hstate, hcount⟩ := h
  refine ⟨hi ▸ horder, fun l hl => ?_, hn ▸ hnext, by rw [hs, hr]; exact hstate, hc ▸ hcount⟩
  obtain ⟨m, hm, hml⟩ := List.mem_map.mp (hi ▸ List.mem_map_of_mem (f := Line.index) hl)
  rw [← hml, hn]
  exact hbelow m hm

/-- Whatever the state and the settlement record, the lines of a sound tab stay in order. -/
theorem Tab.Sound.of_lines {t u : Tab} (h : t.Sound) (hi : u.lines.map Line.index = t.lines.map Line.index)
    (hn : u.nextIndex = t.nextIndex) (hs : u.state = .settling ↔ u.settlement.isSome = true) (hc : u.shareCount ≤ 12) : u.Sound := by
  obtain ⟨horder, hbelow, hnext, -, -⟩ := h
  refine ⟨hi ▸ horder, fun l hl => ?_, hn ▸ hnext, hs, hc⟩
  obtain ⟨m, hm, hml⟩ := List.mem_map.mp (hi ▸ List.mem_map_of_mem (f := Line.index) hl)
  rw [← hml, hn]
  exact hbelow m hm

theorem Tab.editLines_indices (t : Tab) (pick : Nat → Bool) (f : Line → Line) (hf : ∀ l, (f l).index = l.index) :
    (t.editLines pick f).lines.map Line.index = t.lines.map Line.index := by
  simp only [Tab.editLines, List.map_map]
  refine List.map_congr_left fun l _ => ?_
  simp only [Function.comp_apply]
  split
  · exact hf l
  · rfl

theorem Tab.Sound.editLines {t : Tab} (h : t.Sound) (pick : Nat → Bool) (f : Line → Line) (hf : ∀ l, (f l).index = l.index) :
    (t.editLines pick f).Sound :=
  h.of_same (t.editLines_indices pick f hf) rfl rfl rfl rfl

theorem Tab.setShare_shareCount (t : Tab) (j : Nat) (x : Share) : (t.setShare j x).shareCount = t.shareCount := by
  cases h : t.settlement <;> simp [Tab.shareCount, Tab.setShare, h]

theorem Tab.setShare_isSome (t : Tab) (j : Nat) (x : Share) : (t.setShare j x).settlement.isSome = t.settlement.isSome := by
  simp [Tab.setShare]

theorem Tab.Sound.setShare {t : Tab} (h : t.Sound) (j : Nat) (x : Share) : (t.setShare j x).Sound :=
  h.of_same rfl rfl rfl (t.setShare_isSome j x) (t.setShare_shareCount j x)

theorem Tab.Sound.settled {t : Tab} (h : t.Sound) (w : Bool) : (t.settled w).Sound :=
  h.of_lines rfl rfl (by simp [Tab.settled]) (by simp [Tab.settled, Tab.shareCount])

theorem Tab.Sound.records_settling {t : Tab} (h : t.Sound) (hs : t.state = .settling) : t.records = 1 := by
  simp [Tab.records, h.2.2.2.1.mp hs]

theorem Tab.records_le (t : Tab) : t.records ≤ 1 := by
  unfold Tab.records
  cases t.settlement.isSome <;> decide

/-! ### The table -/

namespace State.TabsOk
variable {s t : State}

theorem reads : Reads [.tabs, .tabCounter] State.TabsOk := by
  intro ps s t f hd hs
  unfold State.TabsOk State.linesInUse
  rw [f.tabs (hd _ (by simp)), f.tabCounter (hd _ (by simp))]
  exact hs

theorem sound (h : s.TabsOk) {n : Nat} {x : Tab} (hx : s.tabs.find n = some x) : x.Sound :=
  (h.2.2.2.2.2 _ (Table.find_some_mem hx)).2

theorem sound_tab (h : s.TabsOk) {n : Nat} {x : Tab} (hx : s.tab n = some x) : x.Sound := h.sound (State.tab_some hx).2

theorem settlements (h : s.TabsOk) : (s.tabs.map fun e => e.2.records).sum ≤ Config.settlementRecords :=
  State.settlements_eq_sum s.tabs ▸ h.2.2.2.2.1

/-- A tab stored where one stood: sound, and within the line records and settlement records that were free. -/
theorem setTab (h : s.TabsOk) {n : Nat} {y x : Tab} (hy : s.tabs.find n = some y) (hx : x.Sound)
    (hl : s.linesInUse + x.lines.length ≤ Config.poolRecords + y.lines.length)
    (hr : (s.tabs.map fun e => e.2.records).sum + x.records ≤ Config.settlementRecords + y.records) : (s.setTab n x).TabsOk := by
  obtain ⟨hrise, hlen, hcounter, -, -, hall⟩ := h
  have h1 := Table.sum_put s.tabs (fun t => t.lines.length) hrise n y x hy
  have h2 := Table.sum_put s.tabs Tab.records hrise n y x hy
  refine ⟨hrise.put n x, (Table.length_put_present hrise hy x).trans_le hlen, hcounter, ?_, ?_, fun e he => ?_⟩
  · simp only [State.linesInUse, State.setTab] at hl ⊢
    omega
  · rw [State.settlements_eq_sum]
    simp only [State.setTab]
    omega
  · rcases Table.mem_put he with rfl | he
    · exact ⟨(hall _ (Table.find_some_mem hy)).1, hx⟩
    · exact hall e he

/-- A tab stored where one stood, with no more lines and no more settlement records. -/
theorem setTab_le (h : s.TabsOk) {n : Nat} {y x : Tab} (hy : s.tabs.find n = some y) (hx : x.Sound)
    (hl : x.lines.length ≤ y.lines.length) (hr : x.records ≤ y.records) : (s.setTab n x).TabsOk := by
  have h1 := h.2.2.2.1
  have h2 := h.settlements
  exact h.setTab hy hx (by omega) (by omega)

/-- A tab stored with its lines changed, their indices as they were, and no more settlement records. -/
theorem setTab_lines (h : s.TabsOk) {n : Nat} {y x : Tab} (hy : s.tabs.find n = some y) (hx : x.Sound)
    (hi : x.lines.map Line.index = y.lines.map Line.index) (hr : x.records ≤ y.records) : (s.setTab n x).TabsOk :=
  h.setTab_le hy hx (by simpa using (congrArg List.length hi).le) hr

theorem sublist (h : s.TabsOk) (hsub : t.tabs.Sublist s.tabs) (hc : t.tabCounter = s.tabCounter) : t.TabsOk := by
  obtain ⟨hrise, hlen, hcounter, hlines, hrec, hall⟩ := h
  exact ⟨hrise.sublist (hsub.map _), hsub.length_le.trans hlen, hc ▸ hcounter,
    ((hsub.map _).sum_le_sum fun _ _ => Nat.zero_le _).trans hlines, hsub.countP_le.trans hrec, fun e he => hall e (hsub.subset he)⟩

theorem removeTab (h : s.TabsOk) (n : Nat) : (s.removeTab n).TabsOk := h.sublist List.filter_sublist rfl

theorem retireCheck (h : s.TabsOk) (n : Nat) : (s.retireCheck n).TabsOk := by
  unfold State.retireCheck
  repeat' split
  · exact h
  · exact h.removeTab n
  · exact h

theorem editLines (h : s.TabsOk) (n : Nat) (pick : Nat → Bool) (f : Line → Line) (hf : ∀ l, (f l).index = l.index) :
    (s.editTab n fun t => t.editLines pick f).TabsOk := by
  obtain ⟨hrise, hlen, hcounter, hlines, hrec, hall⟩ := h
  have hsum : ∀ g : Tab → Nat, (∀ t, g (t.editLines pick f) = g t) →
      ((s.tabs.edit n fun t => t.editLines pick f).map fun e => g e.2) = s.tabs.map fun e => g e.2 := by
    intro g hg
    simp only [Table.edit, List.map_map]
    refine List.map_congr_left fun e _ => ?_
    simp only [Function.comp_apply]
    split
    · exact hg _
    · rfl
  refine ⟨hrise.edit n fun t => t.editLines pick f, (Table.length_edit s.tabs n fun t => t.editLines pick f).trans_le hlen,
    hcounter, ?_, ?_, fun e he => ?_⟩
  · exact (congrArg List.sum (hsum (fun t => t.lines.length) fun t => by simp [Tab.editLines])).trans_le hlines
  · rw [State.settlements_eq_sum]
    rw [State.settlements_eq_sum] at hrec
    exact (congrArg List.sum (hsum Tab.records fun _ => rfl)).trans_le hrec
  · obtain ⟨a, ha, rfl⟩ := List.mem_map.mp he
    obtain ⟨hn, hsound⟩ := hall a ha
    split
    · exact ⟨hn, hsound.editLines pick f hf⟩
    · exact ⟨hn, hsound⟩

theorem work : TabWork State.TabsOk where
  frame := reads.mono (by decide)
  lines _ n pick f hf hs := hs.editLines n pick f hf
  retire _ n hs := hs.retireCheck n

/-! ### The owners that change tabs -/

theorem openTab (h : s.TabsOk) (src kind : Nat) (label : List Byte) : (openTab src kind label s).1.TabsOk := by
  unfold Machine.openTab
  repeat' split
  all_goals try exact h
  rename_i k _ _ hroom
  obtain ⟨hrise, hlen, hcounter, hlines, hrec, hall⟩ := h
  have hused : (s.tabs.map (·.1)).length < Config.maxTabNumber := by
    rw [List.length_map]
    exact hlen.trans_lt (by decide)
  obtain ⟨hrange, hfresh, -⟩ := firstFree_spec (s.tabs.map (·.1)) Config.maxTabNumber hused s.tabCounter hcounter
  rw [List.length_map] at hrange hfresh
  have hnone : s.tabs.find s.freshTab = none := Table.find_eq_none.mpr hfresh
  refine ⟨hrise.put _ _, (Table.length_put_le _ _ _).trans (by omega), ?_, ?_, ?_, fun e he => ?_⟩
  · show 1 ≤ (if s.freshTab = 9999 then 1 else s.freshTab + 1) ∧ (if s.freshTab = 9999 then 1 else s.freshTab + 1) ≤ 9999
    have : 1 ≤ s.freshTab ∧ s.freshTab ≤ 9999 := hrange
    split <;> omega
  · exact (Table.sum_put_fresh s.tabs (fun t => t.lines.length) s.freshTab (Tab.fresh k src label) hnone).trans_le hlines
  · rw [State.settlements_eq_sum] at hrec ⊢
    exact (Table.sum_put_fresh s.tabs Tab.records s.freshTab (Tab.fresh k src label) hnone).trans_le hrec
  · rcases Table.mem_put he with rfl | he
    · exact ⟨hrange, by simp [Tab.Sound, Tab.fresh, Tab.shareCount]⟩
    · exact hall e he

end State.TabsOk

/-- The checks of an edit pass for a tab that is there, at its revision and through its gate (R44). -/
theorem State.editChecks_inv {s : State} {tab rev : Nat} {gate : Tab → Option Reply} {t : Tab}
    (h : s.editChecks tab rev gate = .ok t) : s.tab tab = some t ∧ gate t = none ∧ t.revision = rev := by
  unfold State.editChecks at h
  repeat' split at h
  all_goals cases h
  exact ⟨‹_›, ‹_›, ‹_›⟩

theorem onlyOpen_inv {t : Tab} (h : onlyOpen t = none) : t.state = .opened := by
  unfold onlyOpen at h
  split at h
  · assumption
  · cases h

/-- The gate of a plan lets an OPEN tab through for SPLIT alone, and a SETTLING one while every share is UNPAID (R125). -/
theorem planGate_inv {openToo : Bool} {t : Tab} (h : planGate openToo t = none) :
    (t.state = .opened ∧ openToo = true) ∨ (t.state = .settling ∧ ∀ x ∈ t.settlement.getD [], x.pay = .unpaid) := by
  unfold planGate at h
  split at h
  · split at h
    · exact Or.inl ⟨‹_›, ‹_›⟩
    · cases h
  · split at h
    · exact Or.inr ⟨‹_›, (Tab.allUnpaid_iff t).mp ‹_›⟩
    · cases h
  · cases h

/-- The shared checks of payment pass for a share of a SETTLING tab that is there (R147). -/
theorem State.tenderChecks_inv {s : State} {tab j : Nat} {f : Tab → List Field} {t : Tab} {x : Share}
    (h : s.tenderChecks tab j f = .ok (t, x)) : s.tab tab = some t ∧ t.state = .settling ∧ t.share j = some x := by
  unfold State.tenderChecks at h
  repeat' split at h
  all_goals cases h
  exact ⟨‹_›, Classical.not_not.mp ‹_›, ‹_›⟩

namespace State.TabsOk
variable {s t : State}

/-- A line appended takes the next index and one free record (R39). -/
theorem sound_append {t : Tab} (h : t.Sound) (hn : t.nextIndex ≤ 64) {l : Line} (hl : l.index = t.nextIndex) :
    Tab.Sound { t with lines := t.lines ++ [l], nextIndex := t.nextIndex + 1 } := by
  obtain ⟨horder, hbelow, hnext, hstate, hcount⟩ := h
  refine ⟨?_, fun m hm => ?_, ⟨by dsimp only; omega, by dsimp only; omega⟩, hstate, hcount⟩
  · simp only [List.map_append, List.map_cons, List.map_nil]
    refine List.pairwise_append.mpr ⟨horder, List.pairwise_singleton _ _, fun a ha b hb => ?_⟩
    obtain ⟨m, hm, rfl⟩ := List.mem_map.mp ha
    obtain rfl := List.mem_singleton.mp hb
    exact hl ▸ (hbelow m hm).2
  · rcases List.mem_append.mp hm with hm | hm
    · have := hbelow m hm
      exact ⟨this.1, by dsimp only; omega⟩
    · obtain rfl := List.mem_singleton.mp hm
      exact ⟨by omega, by dsimp only; omega⟩

theorem addLine (h : s.TabsOk) (tab rev item qty : Nat) (mods : List Nat) : (addLine tab rev item qty mods s).1.TabsOk := by
  unfold Machine.addLine
  split
  · exact h
  · rename_i t ht
    obtain ⟨ht, -, -⟩ := State.editChecks_inv ht
    unfold addLineTo
    dsimp only
    repeat' split
    all_goals try exact h
    · exact reads (State.enterAlert_frame _ _ _) (by decide) h
    · rename_i hlimit hfree _ _
      have hroom : t.nextIndex ≤ 64 := Nat.not_lt.mp fun hc => hlimit (Or.inl hc)
      have hf := State.reserve_frame s item mods qty
      have hfind : (s.reserve item mods qty).tabs.find tab = some t := by
        rw [hf.tabs (by decide)]
        exact (State.tab_some ht).2
      have h1 : (s.reserve item mods qty).TabsOk := reads hf (by decide) h
      have huse : (s.reserve item mods qty).linesInUse = s.linesInUse := by
        unfold State.linesInUse
        rw [hf.tabs (by decide)]
      refine reads (State.poolCheck_frame _) (by decide) (h1.setTab hfind ?_ ?_ ?_)
      · exact (sound_append (h.sound_tab ht) (l := s.newLine t.nextIndex item qty mods) hroom rfl).of_same rfl rfl rfl rfl rfl
      · rw [huse]
        show s.linesInUse + (t.lines ++ [s.newLine t.nextIndex item qty mods]).length ≤ _
        have hfree : Config.poolRecords - s.linesInUse ≠ 0 := hfree
        rw [List.length_append, List.length_singleton]
        omega
      · exact Nat.add_le_add_right h1.settlements t.records

theorem voidLine (h : s.TabsOk) (tab rev index : Nat) : (voidLine tab rev index s).1.TabsOk := by
  unfold Machine.voidLine
  split
  · exact h
  · rename_i t ht
    obtain ⟨ht, -, -⟩ := State.editChecks_inv ht
    unfold voidLineOf
    split
    · exact h
    · rename_i l _
      have hf : SameBut [.items] s (if s.voidRestores l then s.restore l else s) :=
        SameBut.ite (fun _ => State.restore_frame s l) fun _ => SameBut.refl _ s
      have h1 : State.TabsOk (if s.voidRestores l then s.restore l else s) := reads hf (by decide) h
      have hfind : Table.find (if s.voidRestores l then s.restore l else s).tabs tab = some t := by
        rw [hf.tabs (by decide)]
        exact (State.tab_some ht).2
      have h2 := h1.setTab_lines (x := (s.withTotals (t.editLines (· == index) fun l => { l with voided := true })).edited) hfind
        (((h.sound_tab ht).editLines (· == index) (fun l => { l with voided := true }) fun _ => rfl).of_same rfl rfl rfl rfl rfl)
        (t.editLines_indices (· == index) _ fun _ => rfl) (Nat.le_refl _)
      dsimp only
      split
      · exact work.voidOnTicket _ _ h2
      · exact h2

theorem setLabel (h : s.TabsOk) (tab rev : Nat) (label : List Byte) : (setLabel tab rev label s).1.TabsOk := by
  unfold Machine.setLabel
  repeat' split
  all_goals try exact h
  rename_i ht _
  obtain ⟨ht, -, -⟩ := State.editChecks_inv ht
  exact h.setTab_lines (State.tab_some ht).2 ((h.sound_tab ht).of_same rfl rfl rfl rfl rfl) rfl (Nat.le_refl _)

theorem setService (h : s.TabsOk) (tab rev rate : Nat) : (setService tab rev rate s).1.TabsOk := by
  unfold Machine.setService
  split
  · exact h
  · rename_i ht
    obtain ⟨ht, -, -⟩ := State.editChecks_inv ht
    exact h.setTab_lines (State.tab_some ht).2 ((h.sound_tab ht).of_same rfl rfl rfl rfl rfl) rfl (Nat.le_refl _)

theorem closeEmpty (h : s.TabsOk) (tab rev : Nat) : (closeEmpty tab rev s).1.TabsOk := by
  unfold Machine.closeEmpty
  repeat' split
  · exact h
  · exact h.removeTab tab
  · exact h

/-! ### MERGE-TABS (R59) -/

theorem activeLines_sublist (ls : List Line) : (activeLines ls).Sublist ls := List.filter_sublist

/-- The lines moved take the indices that follow B's, in order. -/
theorem movedLines_indices (a : Tab) (first : Nat) :
    (movedLines a first).map Line.index = List.range' first (activeLines a.lines).length := by
  refine List.ext_getElem (by simp [movedLines]) fun i h1 h2 => ?_
  simp [movedLines]

theorem mergedTab_sound {a b : Tab} (hb : b.Sound) (hn : b.nextIndex + (activeLines a.lines).length ≤ 65) (s : State) :
    (s.mergedTab a b).Sound := by
  obtain ⟨horder, hbelow, hnext, hstate, hcount⟩ := hb
  have hidx := movedLines_indices a b.nextIndex
  refine ⟨?_, fun l hl => ?_, ⟨hnext.1.trans (Nat.le_add_right _ _), hn⟩, hstate, hcount⟩
  · show ((b.lines ++ movedLines a b.nextIndex).map Line.index).Pairwise (· < ·)
    rw [List.map_append, hidx]
    refine List.pairwise_append.mpr ⟨horder, List.pairwise_lt_range', fun x hx y hy => ?_⟩
    obtain ⟨m, hm, rfl⟩ := List.mem_map.mp hx
    exact (hbelow m hm).2.trans_le (List.mem_range'_1.mp hy).1
  · show 1 ≤ l.index ∧ l.index < b.nextIndex + (activeLines a.lines).length
    rcases List.mem_append.mp (show l ∈ b.lines ++ movedLines a b.nextIndex from hl) with hl | hl
    · have := hbelow l hl
      omega
    · have hmem := List.mem_range'_1.mp (hidx ▸ List.mem_map_of_mem (f := Line.index) hl)
      omega

theorem mergedTab_length (a b : Tab) (s : State) :
    (s.mergedTab a b).lines.length = b.lines.length + (activeLines a.lines).length := by
  show (b.lines ++ movedLines a b.nextIndex).length = _
  simp [movedLines]

/-- The lines moved take no record that A's did not hold. -/
theorem mergeInto (h : s.TabsOk) {tabA tabB : Nat} {a b : Tab} (hne : tabA ≠ tabB) (ha : s.tabs.find tabA = some a)
    (hb : s.tabs.find tabB = some b) (hn : b.nextIndex + (activeLines a.lines).length ≤ 65) :
    (mergeInto tabA tabB a b s).TabsOk := by
  obtain ⟨hrise, hlen, hcounter, hlines, hrec, hall⟩ := h
  have hsound := mergedTab_sound (a := a) (hall _ (Table.find_some_mem hb)).2 hn s
  have hputA : (s.tabs.put tabB (s.mergedTab a b)).find tabA = some a := by rw [Table.find_put_other _ _ _ _ hne, ha]
  have hp1 := Table.sum_put s.tabs (fun t => t.lines.length) hrise tabB b (s.mergedTab a b) hb
  have he1 := Table.sum_erase _ (fun t => t.lines.length) tabA a hputA
  have hp2 := Table.sum_put s.tabs Tab.records hrise tabB b (s.mergedTab a b) hb
  have he2 := Table.sum_erase _ Tab.records tabA a hputA
  have hact := (activeLines_sublist a.lines).length_le
  have hr : (s.mergedTab a b).records = b.records := rfl
  rw [mergedTab_length] at hp1
  have htabs : (Machine.mergeInto tabA tabB a b s).tabs = (s.tabs.put tabB (s.mergedTab a b)).erase tabA := rfl
  refine ⟨htabs ▸ (hrise.put _ _).erase _, ?_, hcounter, ?_, ?_, fun e he => ?_⟩
  · rw [htabs]
    exact (List.length_filter_le _ _).trans ((Table.length_put_present hrise hb _).trans_le hlen)
  · simp only [State.linesInUse, htabs] at hlines ⊢
    omega
  · rw [State.settlements_eq_sum] at hrec ⊢
    rw [htabs]
    omega
  · rw [htabs] at he
    rcases Table.mem_put (List.mem_filter.mp he).1 with rfl | he
    · exact ⟨(hall _ (Table.find_some_mem hb)).1, hsound⟩
    · exact hall e he

theorem mergeTabs (h : s.TabsOk) (tabA revA tabB revB : Nat) : (mergeTabs tabA revA tabB revB s).1.TabsOk := by
  unfold Machine.mergeTabs
  repeat' split
  all_goals try exact h
  rename_i a ha _ b hb hne _ _ _ _ hlimit
  have hf : (firstNewIndex a b s).1.TabsOk ∧ (firstNewIndex a b s).1.tabs = s.tabs := by
    unfold firstNewIndex
    split <;> exact ⟨h, rfl⟩
  exact hf.1.mergeInto hne (hf.2 ▸ (State.tab_some ha).2) (hf.2 ▸ (State.tab_some hb).2) (by omega)

/-! ### Plans (R128, R131, R132) -/

/-- A tab with its plan made anew holds one settlement record of at most twelve shares. -/
theorem planned_sound {t u : Tab} (h : t.Sound) (hi : u.lines.map Line.index = t.lines.map Line.index)
    (hn : u.nextIndex = t.nextIndex) (s : State) {n : Nat} (hc : n ≤ 12) : (s.planned u n).Sound :=
  h.of_lines hi hn (by simp [State.planned, Tab.edited])
    (by simpa [State.planned, Tab.edited, Tab.shareCount, State.splitTab] using hc)

theorem splitRequest (h : s.TabsOk) (tab rev n : Nat) (entries : List SplitEntry) :
    (splitRequest tab rev n entries s).1.TabsOk := by
  unfold Machine.splitRequest
  split
  · exact h
  · rename_i t ht
    obtain ⟨ht, hg, -⟩ := State.editChecks_inv ht
    unfold splitOf
    repeat' split
    all_goals try exact h
    rename_i hn _ hfree _ _
    have hs := h.sound_tab ht
    have hidx : (t.withSets n entries).lines.map Line.index = t.lines.map Line.index := by
      simp only [Tab.withSets, List.map_map]
      refine List.map_congr_left fun l _ => ?_
      simp only [Function.comp_apply]
      split <;> rfl
    have hlen : (t.withSets n entries).lines.length = t.lines.length := by simp [Tab.withSets]
    refine h.setTab (State.tab_some ht).2 (planned_sound hs hidx rfl s (by omega)) ?_ ?_
    · have := h.2.2.2.1
      show s.linesInUse + (t.withSets n entries).lines.length ≤ _
      omega
    · show _ + 1 ≤ _
      have hsum := h.settlements
      rcases planGate_inv hg with ⟨ho, -⟩ | ⟨hst, -⟩
      · have hroom : s.freeSettlements ≠ 0 := fun h0 => hfree ⟨ho, h0⟩
        rw [State.freeSettlements, ← List.countP_eq_length_filter, State.settlements_eq_sum] at hroom
        omega
      · rw [hs.records_settling hst]
        omega

theorem assignRequest (h : s.TabsOk) (tab rev index : Nat) (set : BitVec 12) : (assignRequest tab rev index set s).1.TabsOk := by
  unfold Machine.assignRequest
  repeat' split
  all_goals try exact h
  rename_i t ht _ _
  obtain ⟨ht, hg, -⟩ := State.editChecks_inv ht
  have hs := h.sound_tab ht
  have hidx := t.editLines_indices (· == index) (fun l => { l with shares := set }) fun _ => rfl
  refine h.setTab_lines (State.tab_some ht).2 (planned_sound hs hidx rfl s hs.2.2.2.2) hidx ?_
  rcases planGate_inv hg with ⟨-, hc⟩ | ⟨hst, -⟩
  · cases hc
  · rw [hs.records_settling hst]
    exact Tab.records_le _

theorem unsplitRequest (h : s.TabsOk) (tab rev : Nat) : (unsplitRequest tab rev s).1.TabsOk := by
  unfold Machine.unsplitRequest
  split
  · exact h
  · rename_i t ht
    obtain ⟨ht, -, -⟩ := State.editChecks_inv ht
    have hidx : t.unplanned.lines.map Line.index = t.lines.map Line.index := by
      simp only [Tab.unplanned, Tab.edited, List.map_map]
      refine List.map_congr_left fun l _ => ?_
      simp only [Function.comp_apply]
      split <;> rfl
    exact h.setTab_lines (State.tab_some ht).2
      ((h.sound_tab ht).of_lines hidx rfl (by simp [Tab.unplanned, Tab.edited]) (by simp [Tab.unplanned, Tab.edited, Tab.shareCount]))
      hidx (Nat.zero_le _)

/-! ### Payment -/

theorem setShare (h : s.TabsOk) {n : Nat} {t : Tab} (ht : s.tabs.find n = some t) (j : Nat) (x : Share) :
    (s.setTab n (t.setShare j x)).TabsOk :=
  h.setTab_lines ht ((h.sound ht).setShare j x) rfl (by simp [Tab.records, Tab.setShare_isSome])

theorem tenderBegin (h : s.TabsOk) (src tab share : Nat) : (tenderBegin src tab share s).1.TabsOk := by
  unfold Machine.tenderBegin
  split
  · exact h
  · rename_i ht
    have h1 := fun x => h.setShare (State.tab_some (State.tenderChecks_inv ht).1).2 share x
    dsimp only
    repeat' split
    all_goals try exact h
    · exact reads (State.setHold_frame _ _ _) (by decide) (h1 _)
    · exact h1 _

theorem tenderCancel (h : s.TabsOk) (src tab share : Nat) : (tenderCancel src tab share s).1.TabsOk := by
  unfold Machine.tenderCancel
  split
  · exact h
  · rename_i ht
    have h1 := fun x => h.setShare (State.tab_some (State.tenderChecks_inv ht).1).2 share x
    repeat' split
    all_goals try exact h
    exact reads (State.setHold_frame _ _ _) (by decide) (h1 _)

theorem settle (h : s.TabsOk) {n : Nat} {t : Tab} (ht : s.tabs.find n = some t) : (s.settle n t).TabsOk :=
  (work.autoSend n _ (h.setTab_lines ht ((h.sound ht).settled _) rfl (Nat.zero_le _))).retireCheck n

theorem tenderCommit (h : s.TabsOk) (src tab share kind tendered tip : Nat) :
    (tenderCommit src tab share kind tendered tip s).1.TabsOk := by
  unfold Machine.tenderCommit
  split
  · exact h
  · rename_i t x ht
    have h1 := fun x => h.setShare (State.tab_some (State.tenderChecks_inv ht).1).2 share x
    repeat' split
    all_goals try exact h
    unfold acceptTender
    have h2 := fun x c => reads (credit_frame _ src c) (by decide) (reads (State.setHold_frame _ src none) (by decide) (h1 x))
    dsimp only
    split
    · refine State.TabsOk.settle (h2 _ _) ?_
      rw [(credit_frame _ _ _).tabs (by decide)]
      exact Table.find_put_same _ _ _
    · exact h2 _ _

theorem writeOff (h : s.TabsOk) (n : Nat) : (writeOff n s).1.TabsOk := by
  unfold Machine.writeOff
  repeat' split
  all_goals try exact h
  rename_i t ht _ _
  have hf := SameBut.foldl State.restore_frame (unsentLines t) { s with writeOffTotal := addCapped s.writeOffTotal (writeOffAmount t).1 }
  have h1 : State.TabsOk ((unsentLines t).foldl State.restore { s with writeOffTotal := addCapped s.writeOffTotal (writeOffAmount t).1 }) :=
    reads hf (by decide) h
  have hfind := (congrArg (Table.find · n) (hf.tabs (by decide))).trans (State.tab_some ht).2
  have hmap : (Tab.settled { t with settlement := t.settlement.map (List.map Share.writtenOff) } true).Sound :=
    (h.sound_tab ht).of_lines rfl rfl (by simp [Tab.settled]) (by simp [Tab.settled, Tab.shareCount])
  exact State.TabsOk.retireCheck (Reads.foldl (P := State.TabsOk) (fun _ m hs => work.killAndRestore m hs) (s.unstarted n) _
    (h1.setTab_lines hfind hmap rfl (Nat.zero_le _))) n

theorem endDay (h : s.TabsOk) : (endDay s).1.TabsOk := by
  refine reads (changePeriod_frame s.dayClear .prep) (by decide) ?_
  obtain ⟨hrise, hlen, -, hrest⟩ := h
  exact ⟨hrise, hlen, by simp [State.dayClear], hrest⟩

theorem owner {i : Instr} {k : ReqKind} {src : Nat} {o : State → State × Reply}
    (hi : ownerOf i = some (k, src, o)) (h : s.TabsOk) : (o s).1.TabsOk := by
  by_cases hrecall : ∃ n, i = .recall n
  · obtain ⟨n, rfl⟩ := hrecall
    cases hi
    exact work.recallRequest _ h
  cases i with
  | openTab => cases hi; exact h.openTab _ _ _
  | addLine => cases hi; exact h.addLine _ _ _ _ _
  | voidLine => cases hi; exact h.voidLine _ _ _
  | setLabel => cases hi; exact h.setLabel _ _ _
  | setService => cases hi; exact h.setService _ _ _
  | closeEmpty => cases hi; exact h.closeEmpty _ _
  | mergeTabs => cases hi; exact h.mergeTabs _ _ _ _
  | split => cases hi; exact h.splitRequest _ _ _ _
  | assign => cases hi; exact h.assignRequest _ _ _ _
  | unsplit => cases hi; exact h.unsplitRequest _ _
  | tenderBegin => cases hi; exact h.tenderBegin _ _ _
  | tenderCancel => cases hi; exact h.tenderCancel _ _ _
  | tenderCommit => cases hi; exact h.tenderCommit _ _ _ _ _ _
  | writeOff => cases hi; exact h.writeOff _
  | send => cases hi; exact work.sendRequest _ _ _ h
  | killTicket => cases hi; exact work.killRequest _ h
  | bump => cases hi; exact work.bumpRequest _ _ h
  | endDay => cases hi; exact h.endDay
  | _ => exact reads.owner hi (by simp [ownerParts] at hrecall ⊢) h

theorem expireHold (h : s.TabsOk) (n j : Nat) : (s.expireHold n j).TabsOk := by
  unfold State.expireHold
  split
  · exact h
  · rename_i t ht
    have h1 := fun x => h.setShare ht j x
    repeat' split
    all_goals try exact h
    exact reads (State.notify_frame _ _ _) (by decide) (reads (State.setHold_frame _ _ _) (by decide) (h1 _))

theorem cold (cfg : Bool) : (State.cold cfg).TabsOk := by
  simp [State.TabsOk, State.cold, Table.Rising, State.linesInUse]

theorem carried : Carried State.TabsOk where
  link := reads.link (by decide)
  cold := reads.coldKeeping (by decide) cold
  slot s d r := reads (State.setDrop_frame s d _) (by decide)
  owner _ _ _ _ _ hi _ hs := owner hi hs
  expire s n j hs := hs.expireHold n j
  window s d := work.endWindow d
  rise s n := reads (rise_frame s n) (by decide)
  due s ns := reads.risesDue (by decide) ns
  tick s := reads.tick (by decide)
  poll s l _ := reads (beginPoll_frame s l) (by decide)
  turn s l w := reads (State.setLane_frame s l _) (by decide)
  miss s l := reads (miss_frame s l) (by decide)
  heard s l := reads (heard_frame s l) (by decide)

end State.TabsOk

/-- Settles O54: a tab is stored where one stood, or at a fresh number outside PREP and CLOSED, within the free records. -/
theorem stepKeepsTabTable : Obligations.StepKeepsTabTable := fun s t ⟨htabs, hhours⟩ he =>
  ⟨State.TabsOk.carried.step s t htabs he, State.HoursOk.carried.step s t hhours he⟩

end Sys2Proof.Machine

/-! PROOFS. The hold records and the HELD shares (R146 to R148): who holds which share, what each payment request and each
expiry changes of it, and the obligation O56. -/

namespace Sys2Proof.Machine

/-! ### Who holds a share -/

/-- Share `j` of the tab is HELD by the till. -/
def Tab.Holds (t : Tab) (j till : Nat) : Prop := ∃ x e, t.share j = some x ∧ x.pay = .held till e

/-- Share `j` of tab `n` is HELD by the till. -/
def State.Holder (s : State) (n j till : Nat) : Prop := ∃ t, s.tab n = some t ∧ t.Holds j till

theorem State.holdsOk_iff (s : State) :
    s.HoldsOk ↔ (∀ n j till, s.Holder n j till → till ≤ 32) ∧
      ∀ till, till ≤ 32 → ∀ n j, s.hold till = some ⟨n, j⟩ ↔ s.Holder n j till := by
  unfold State.HoldsOk State.Holder Tab.Holds
  constructor
  · rintro ⟨h1, h2⟩
    refine ⟨?_, fun till ht n j => (h2 till ht n j).trans ?_⟩
    · rintro n j till ⟨t, ht, x, e, hx, hp⟩
      exact h1 n t j x till e ht hx hp
    · exact ⟨fun ⟨t, x, e, ht, hx, hp⟩ => ⟨t, ht, x, e, hx, hp⟩, fun ⟨t, ht, x, e, hx, hp⟩ => ⟨t, x, e, ht, hx, hp⟩⟩
  · rintro ⟨h1, h2⟩
    refine ⟨fun n t j x till e ht hx hp => h1 n j till ⟨t, ht, x, e, hx, hp⟩, fun till ht n j => (h2 till ht n j).trans ?_⟩
    exact ⟨fun ⟨t, ht, x, e, hx, hp⟩ => ⟨t, x, e, ht, hx, hp⟩, fun ⟨t, x, e, ht, hx, hp⟩ => ⟨t, ht, x, e, hx, hp⟩⟩

theorem Tab.not_holds_of_none {t : Tab} (h : t.settlement = none) (j till : Nat) : ¬t.Holds j till := by
  rintro ⟨x, e, hx, -⟩
  simp [Tab.share, h] at hx

/-- A share of a tab is one of its settlement record. -/
theorem Tab.share_mem {t : Tab} {j : Nat} {x : Share} (h : t.share j = some x) : x ∈ t.settlement.getD [] := by
  unfold Tab.share at h
  split at h
  · cases h
  · exact List.mem_of_getElem? h

theorem Tab.not_holds_of_all {t : Tab} (h : ∀ x ∈ t.settlement.getD [], x.pay.isHeld = false) (j till : Nat) : ¬t.Holds j till := by
  rintro ⟨x, e, hx, hp⟩
  have := h x (Tab.share_mem hx)
  rw [hp] at this
  cases this

theorem Tab.holds_congr {t u : Tab} (h : u.settlement = t.settlement) (j till : Nat) : u.Holds j till ↔ t.Holds j till := by
  unfold Tab.Holds Tab.share
  rw [h]

/-- A tab that is sound and not SETTLING holds no share. -/
theorem Tab.Sound.not_holds {t : Tab} (h : t.Sound) (hs : t.state ≠ .settling) (j till : Nat) : ¬t.Holds j till :=
  Tab.not_holds_of_none (Option.not_isSome_iff_eq_none.mp fun hc => hs (h.2.2.2.1.mpr hc)) j till

theorem Tab.share_setShare {t : Tab} {j : Nat} {x : Share} (hx : t.share j = some x) (y : Share) (i : Nat) :
    (t.setShare j y).share i = if i = j then some y else t.share i := by
  unfold Tab.share at hx
  split at hx
  · cases hx
  · rename_i hj
    cases hset : t.settlement with
    | none => simp [hset] at hx
    | some l =>
      have hlt : j - 1 < l.length := by
        rw [hset] at hx
        exact (List.getElem?_eq_some_iff.mp hx).1
      simp only [Tab.share, Tab.setShare, hset, Option.map_some, Option.getD_some]
      by_cases hi : i = 0
      · simp [hi, Ne.symm hj]
      · by_cases hij : i = j
        · simp [hij, hj, hlt]
        · have hne : j - 1 ≠ i - 1 := by omega
          simp [hi, hij, hne]

theorem Tab.holds_setShare {t : Tab} {j : Nat} {x : Share} (hx : t.share j = some x) (y : Share) (i till : Nat) :
    (t.setShare j y).Holds i till ↔ (i = j ∧ ∃ e, y.pay = .held till e) ∨ (i ≠ j ∧ t.Holds i till) := by
  unfold Tab.Holds
  rw [Tab.share_setShare hx]
  by_cases hi : i = j
  · simp [hi]
  · simp [hi]

theorem State.holder_setTab {s : State} {n : Nat} (hn : 1 ≤ n ∧ n ≤ Config.maxTabNumber) (x : Tab) (m j till : Nat) :
    (s.setTab n x).Holder m j till ↔ (m = n ∧ x.Holds j till) ∨ (m ≠ n ∧ s.Holder m j till) := by
  unfold State.Holder
  rcases eq_or_ne m n with rfl | hne
  · simp [State.tab_setTab_same s m x hn]
  · simp [State.tab_setTab_other s n m x hne, hne]

/-- Every HELD share of a tab that is there is that tab's own. -/
theorem State.holder_of_tab {s : State} {n : Nat} {t : Tab} (ht : s.tab n = some t) (j till : Nat) :
    s.Holder n j till ↔ t.Holds j till := by
  simp [State.Holder, ht]

theorem State.admits_le {s : State} {k : ReqKind} {src : Nat} (h : s.admits k src = true) : src ≤ 32 := by
  rcases State.sender_of_admits h with rfl | ht | ht
  · exact Nat.zero_le _
  · simp only [State.isTill, Bool.and_eq_true] at ht
    exact ((isDrop_iff src).mp ht.1).2
  · simp only [State.isStation, Bool.and_eq_true] at ht
    exact ((isDrop_iff src).mp ht.1).2

/-- In a sound tab table every number that has a tab is one a request can name. -/
theorem State.TabsOk.tab_eq_find {s : State} (h : s.TabsOk) (n : Nat) : s.tab n = s.tabs.find n := by
  unfold State.tab
  split
  · rfl
  · rename_i hn
    refine (Table.find_eq_none.mpr fun hm => hn ?_).symm
    obtain ⟨e, he, rfl⟩ := List.mem_map.mp hm
    exact (h.2.2.2.2.2 e he).1

/-! ### What keeps the law -/

namespace State.HoldsOk
variable {s t : State}

theorem reads : Reads [.tabs, .holds] State.HoldsOk := by
  intro ps s t f hd hs
  have ht := f.tabs (hd _ (by simp))
  have hh := f.holds (hd _ (by simp))
  refine ⟨fun n t' j x till e => ?_, fun till htill n j => ?_⟩
  · rw [State.tab_of ht]
    exact hs.1 n t' j x till e
  · rw [State.hold_of hh, State.tab_of ht]
    exact hs.2 till htill n j

/-- The same holds and the same HELD shares. -/
theorem of_holders (h : s.HoldsOk) (hh : t.holds = s.holds) (hk : ∀ n j till, t.Holder n j till ↔ s.Holder n j till) : t.HoldsOk := by
  rw [State.holdsOk_iff] at h ⊢
  refine ⟨fun n j till hc => h.1 n j till ((hk n j till).mp hc), fun till ht n j => ?_⟩
  rw [State.hold_of hh, hk]
  exact h.2 till ht n j

/-- A tab stored where one stood that holds the same shares, or none where none was HELD. -/
theorem setTab (h : s.HoldsOk) {n : Nat} {y x : Tab} (hy : s.tab n = some y) (hx : ∀ j till, x.Holds j till ↔ y.Holds j till) :
    (s.setTab n x).HoldsOk := by
  refine h.of_holders rfl fun m j till => ?_
  rw [State.holder_setTab (State.tab_some hy).1]
  rcases eq_or_ne m n with rfl | hne
  · rw [State.holder_of_tab hy, ← hx]
    simp
  · simp [hne]

theorem editTab (h : s.HoldsOk) (n : Nat) {f : Tab → Tab} (hf : ∀ t, (f t).settlement = t.settlement) : (s.editTab n f).HoldsOk := by
  refine h.of_holders rfl fun m j till => ?_
  simp only [State.Holder, State.tab, State.editTab, Table.find_edit]
  split
  · split
    · cases s.tabs.find m with
      | none => simp
      | some t => simpa using Tab.holds_congr (hf t) j till
    · rfl
  · simp

/-- A tab removed that holds no share. -/
theorem removeTab (h : s.HoldsOk) {n : Nat} (hn : ∀ j till, ¬s.Holder n j till) : (s.removeTab n).HoldsOk := by
  refine h.of_holders rfl fun m j till => ?_
  rcases eq_or_ne m n with rfl | hne
  · refine iff_of_false ?_ (hn j till)
    rintro ⟨t, ht, -⟩
    simp [State.tab, State.removeTab] at ht
  · simp [State.Holder, State.tab, State.removeTab, State.clearRefs, hne]

/-- A share HELD freed, and its till's record with it (R148, R151, R153). -/
theorem release (h : s.HoldsOk) {n j till e : Nat} {t : Tab} {x y : Share} (ht : s.tab n = some t) (hx : t.share j = some x)
    (hp : x.pay = .held till e) (hy : ∀ u e, y.pay ≠ .held u e) :
    ((s.setTab n (t.setShare j y)).setHold till none).HoldsOk := by
  rw [State.holdsOk_iff] at h ⊢
  obtain ⟨hle, hiff⟩ := h
  have hself : s.Holder n j till := ⟨t, ht, x, e, hx, hp⟩
  have htill : till ≤ 32 := hle _ _ _ hself
  have hnew : ∀ m i u, ((s.setTab n (t.setShare j y)).setHold till none).Holder m i u ↔ s.Holder m i u ∧ ¬(m = n ∧ i = j) := by
    intro m i u
    refine (State.holder_setTab (State.tab_some ht).1 _ m i u).trans ?_
    rw [Tab.holds_setShare hx]
    rcases eq_or_ne m n with rfl | hne
    · rw [State.holder_of_tab ht]
      simp [hy, and_comm]
    · simp [hne]
  refine ⟨fun m i u hc => hle m i u ((hnew m i u).mp hc).1, fun u hu m i => ?_⟩
  rw [hnew]
  rcases eq_or_ne u till with rfl | hne
  · rw [State.hold_setHold_same]
    refine iff_of_false (by simp) fun ⟨hc, hno⟩ => hno ?_
    have h1 := (hiff u hu m i).mpr hc
    rw [(hiff u hu n j).mpr hself] at h1
    cases h1
    exact ⟨rfl, rfl⟩
  · rw [State.hold_setHold_other _ _ _ _ htill hu hne]
    refine (hiff u hu m i).trans ⟨fun hc => ⟨hc, ?_⟩, fun hc => hc.1⟩
    rintro ⟨rfl, rfl⟩
    obtain ⟨x', e', hx', hp'⟩ := (State.holder_of_tab ht i u).mp hc
    rw [hx] at hx'
    cases hx'
    rw [hp] at hp'
    cases hp'
    exact hne rfl

/-- An UNPAID share HELD by a till whose record was empty (R147). -/
theorem hold (h : s.HoldsOk) {n j src e : Nat} {t : Tab} {x y : Share} (ht : s.tab n = some t) (hx : t.share j = some x)
    (hp : x.pay = .unpaid) (hy : y.pay = .held src e) (hsrc : src ≤ 32) (hfree : s.hold src = none) :
    ((s.setTab n (t.setShare j y)).setHold src (some ⟨n, j⟩)).HoldsOk := by
  rw [State.holdsOk_iff] at h ⊢
  obtain ⟨hle, hiff⟩ := h
  have hnone : ∀ u, ¬s.Holder n j u := by
    intro u hc
    obtain ⟨x', e', hx', hp'⟩ := (State.holder_of_tab ht j u).mp hc
    rw [hx] at hx'
    cases hx'
    rw [hp] at hp'
    cases hp'
  have hnew : ∀ m i u, ((s.setTab n (t.setShare j y)).setHold src (some ⟨n, j⟩)).Holder m i u ↔
      (m = n ∧ i = j ∧ u = src) ∨ s.Holder m i u := by
    intro m i u
    refine (State.holder_setTab (State.tab_some ht).1 _ m i u).trans ?_
    rw [Tab.holds_setShare hx]
    rcases eq_or_ne m n with rfl | hne
    · rcases eq_or_ne i j with rfl | hij
      · simp [hy, hnone u, eq_comm]
      · simp [hij, State.holder_of_tab ht]
    · simp [hne]
  refine ⟨fun m i u hc => ?_, fun u hu m i => ?_⟩
  · rcases (hnew m i u).mp hc with ⟨-, -, rfl⟩ | hc
    · exact hsrc
    · exact hle m i u hc
  · rw [hnew]
    rcases eq_or_ne u src with rfl | hne
    · rw [State.hold_setHold_same]
      have hno : ¬s.Holder m i u := fun hc => by simpa [hfree] using (hiff u hu m i).mpr hc
      simp [hno, eq_comm]
    · rw [State.hold_setHold_other _ _ _ _ hsrc hu hne]
      simpa [hne] using hiff u hu m i

end State.HoldsOk

/-! ### The two laws together -/

/-- A sound tab table in which the hold records and the HELD shares name each other. -/
def State.HeldOk (s : State) : Prop := s.TabsOk ∧ s.HoldsOk

namespace State.HeldOk
variable {s t : State}

theorem reads : Reads [.tabs, .tabCounter, .holds] State.HeldOk :=
  (State.TabsOk.reads.and State.HoldsOk.reads).mono (by decide)

theorem retireCheck (h : s.HeldOk) (n : Nat) : (s.retireCheck n).HeldOk := by
  refine ⟨h.1.retireCheck n, ?_⟩
  unfold State.retireCheck
  split
  · exact h.2
  · rename_i t ht
    split
    · rename_i hr
      have hst : t.state = .settled := ((State.mayRetire_iff s n t).mp hr).1
      refine h.2.removeTab fun j till => ?_
      rw [State.holder_of_tab (t := t) ((h.1.tab_eq_find n).trans ht)]
      exact (h.1.sound ht).not_holds (by simp [hst]) j till
    · exact h.2

theorem work : TabWork State.HeldOk where
  frame := reads
  lines _ n pick f hf hs := ⟨hs.1.editLines n pick f hf, hs.2.editTab n fun _ => rfl⟩
  retire _ n hs := hs.retireCheck n

/-- The tab stored keeps the settlement record of the one that stood there. -/
theorem setTab_same (h : s.HoldsOk) {n : Nat} {y x : Tab} (hy : s.tab n = some y) (hx : x.settlement = y.settlement) :
    (s.setTab n x).HoldsOk :=
  h.setTab hy fun j till => Tab.holds_congr hx j till

/-- Neither the tab stored nor the one that stood there holds a share. -/
theorem setTab_none (h : s.HoldsOk) {n : Nat} {y x : Tab} (hy : s.tab n = some y) (h1 : ∀ j till, ¬y.Holds j till)
    (h2 : ∀ j till, ¬x.Holds j till) : (s.setTab n x).HoldsOk :=
  h.setTab hy fun j till => iff_of_false (h2 j till) (h1 j till)

theorem openTab (h : s.HeldOk) (src kind : Nat) (label : List Byte) : (openTab src kind label s).1.HoldsOk := by
  unfold Machine.openTab
  repeat' split
  all_goals try exact h.2
  rename_i k _ _ hroom
  obtain ⟨hrange, hfresh, -⟩ := firstFree_spec (s.tabs.map (·.1)) Config.maxTabNumber
    (by rw [List.length_map]; exact h.1.2.1.trans_lt (by decide)) s.tabCounter h.1.2.2.1
  rw [List.length_map] at hrange hfresh
  have hrange : 1 ≤ s.freshTab ∧ s.freshTab ≤ Config.maxTabNumber := hrange
  have hnone : s.tab s.freshTab = none := (h.1.tab_eq_find _).trans (Table.find_eq_none.mpr hfresh)
  have h1 : (s.setTab s.freshTab (Tab.fresh k src label)).HoldsOk := by
    refine h.2.of_holders rfl fun m j till => ?_
    rw [State.holder_setTab hrange]
    rcases eq_or_ne m s.freshTab with hm | hne
    · refine iff_of_false ?_ ?_
      · simp [hm, Tab.not_holds_of_none (t := Tab.fresh k src label) rfl]
      · rintro ⟨t, ht, -⟩
        rw [hm, hnone] at ht
        cases ht
    · simp [hne]
  exact h1

theorem addLine (h : s.HeldOk) (tab rev item qty : Nat) (mods : List Nat) : (addLine tab rev item qty mods s).1.HoldsOk := by
  unfold Machine.addLine
  split
  · exact h.2
  · rename_i t ht
    obtain ⟨ht, -, -⟩ := State.editChecks_inv ht
    unfold addLineTo
    dsimp only
    repeat' split
    all_goals try exact h.2
    · exact State.HoldsOk.reads (State.enterAlert_frame _ _ _) (by decide) h.2
    · have hf := State.reserve_frame s item mods qty
      exact State.HoldsOk.reads (State.poolCheck_frame _) (by decide)
        (setTab_same (State.HoldsOk.reads hf (by decide) h.2) ((State.tab_of (hf.tabs (by decide)) tab).trans ht) rfl)

theorem voidLine (h : s.HeldOk) (tab rev index : Nat) : (voidLine tab rev index s).1.HoldsOk := by
  unfold Machine.voidLine
  split
  · exact h.2
  · rename_i t ht
    obtain ⟨ht, -, -⟩ := State.editChecks_inv ht
    unfold voidLineOf
    split
    · exact h.2
    · rename_i l _
      have hf : SameBut [.items] s (if s.voidRestores l then s.restore l else s) :=
        SameBut.ite (fun _ => State.restore_frame s l) fun _ => SameBut.refl _ s
      have htab := (State.tab_of (hf.tabs (by decide)) tab).trans ht
      have h1 : State.TabsOk (if s.voidRestores l then s.restore l else s) := State.TabsOk.reads hf (by decide) h.1
      have h2 : State.HeldOk ((if s.voidRestores l then s.restore l else s).setTab tab
          (s.withTotals (t.editLines (· == index) fun l => { l with voided := true })).edited) :=
        ⟨h1.setTab_lines (State.tab_some htab).2
          (((h.1.sound_tab ht).editLines (· == index) (fun l => { l with voided := true }) fun _ => rfl).of_same rfl rfl rfl rfl rfl)
          (t.editLines_indices (· == index) _ fun _ => rfl) (Nat.le_refl _),
        setTab_same (State.HoldsOk.reads hf (by decide) h.2) htab rfl⟩
      dsimp only
      split
      · exact (work.voidOnTicket _ _ h2).2
      · exact h2.2

theorem setLabel (h : s.HeldOk) (tab rev : Nat) (label : List Byte) : (setLabel tab rev label s).1.HoldsOk := by
  unfold Machine.setLabel
  repeat' split
  all_goals try exact h.2
  rename_i ht _
  exact setTab_same h.2 (State.editChecks_inv ht).1 rfl

theorem setService (h : s.HeldOk) (tab rev rate : Nat) : (setService tab rev rate s).1.HoldsOk := by
  unfold Machine.setService
  split
  · exact h.2
  · rename_i ht
    exact setTab_same h.2 (State.editChecks_inv ht).1 rfl

theorem closeEmpty (h : s.HeldOk) (tab rev : Nat) : (closeEmpty tab rev s).1.HoldsOk := by
  unfold Machine.closeEmpty
  split
  · exact h.2
  · rename_i t ht
    obtain ⟨ht, hg, -⟩ := State.editChecks_inv ht
    split
    · refine h.2.removeTab fun j till => ?_
      rw [State.holder_of_tab ht]
      exact (h.1.sound_tab ht).not_holds (by simp [onlyOpen_inv hg]) j till
    · exact h.2

/-- Two OPEN tabs merged held no share (R58). -/
theorem mergeInto (h : s.HeldOk) {tabA tabB : Nat} {a b : Tab} (hne : tabA ≠ tabB) (ha : s.tab tabA = some a)
    (hb : s.tab tabB = some b) (hoa : a.state = .opened) : (mergeInto tabA tabB a b s).HoldsOk := by
  have h1 : State.HoldsOk ({ s.clearRefs ((s.tickets.filter fun e => e.2.tab == tabA && !namesMoved a e.2).map Prod.fst).contains with
      tickets := (s.tickets.filter fun e => !(e.2.tab == tabA && !namesMoved a e.2)).map
        fun e => if e.2.tab = tabA then (e.1, mergeTicket a tabB b.nextIndex e.2) else e } : State) := h.2
  refine State.HoldsOk.removeTab (setTab_same (x := s.mergedTab a b) h1 (show State.tab _ tabB = some b from hb) rfl) fun j till => ?_
  refine (not_congr (State.holder_setTab (State.tab_some hb).1 _ _ _ _)).mpr ?_
  rintro (⟨hc, -⟩ | ⟨-, hc⟩)
  · exact hne hc
  · exact (h.1.sound_tab ha).not_holds (by simp [hoa]) j till ((State.holder_of_tab ha j till).mp hc)

theorem mergeTabs (h : s.HeldOk) (tabA revA tabB revB : Nat) : (mergeTabs tabA revA tabB revB s).1.HoldsOk := by
  unfold Machine.mergeTabs
  repeat' split
  all_goals try exact h.2
  rename_i a ha _ b hb hne hoa _ _ _ _
  have hf : State.HeldOk (firstNewIndex a b s).1 ∧ (firstNewIndex a b s).1.tabs = s.tabs := by
    unfold firstNewIndex
    split <;> exact ⟨h, rfl⟩
  exact hf.1.mergeInto hne ((State.tab_of hf.2 _).trans ha) ((State.tab_of hf.2 _).trans hb) (Classical.not_not.mp hoa)

/-- A tab that takes a plan holds no share: it is OPEN, or every share of it is UNPAID (R125). -/
theorem not_holds_of_planGate (h : s.HeldOk) {n : Nat} {t : Tab} (ht : s.tab n = some t) {openToo : Bool}
    (hg : planGate openToo t = none) (j till : Nat) : ¬t.Holds j till := by
  rcases planGate_inv hg with ⟨ho, -⟩ | ⟨-, hall⟩
  · exact (h.1.sound_tab ht).not_holds (by simp [ho]) j till
  · exact Tab.not_holds_of_all (fun x hx => by rw [hall x hx]; rfl) j till

theorem not_holds_planned (s : State) (t : Tab) (n j till : Nat) : ¬(s.planned t n).Holds j till :=
  Tab.not_holds_of_all (fun x hx => by rw [splitShares_unpaid _ _ _ _ _ x hx]; rfl) j till

theorem splitRequest (h : s.HeldOk) (tab rev n : Nat) (entries : List SplitEntry) : (splitRequest tab rev n entries s).1.HoldsOk := by
  unfold Machine.splitRequest
  split
  · exact h.2
  · rename_i t ht
    obtain ⟨ht, hg, -⟩ := State.editChecks_inv ht
    unfold splitOf
    repeat' split
    all_goals try exact h.2
    exact setTab_none h.2 ht (h.not_holds_of_planGate ht hg) (not_holds_planned s _ n)

theorem assignRequest (h : s.HeldOk) (tab rev index : Nat) (set : BitVec 12) : (assignRequest tab rev index set s).1.HoldsOk := by
  unfold Machine.assignRequest
  repeat' split
  all_goals try exact h.2
  rename_i t ht _ _
  obtain ⟨ht, hg, -⟩ := State.editChecks_inv ht
  exact setTab_none h.2 ht (h.not_holds_of_planGate ht hg) (not_holds_planned s _ _)

theorem unsplitRequest (h : s.HeldOk) (tab rev : Nat) : (unsplitRequest tab rev s).1.HoldsOk := by
  unfold Machine.unsplitRequest
  split
  · exact h.2
  · rename_i t ht
    obtain ⟨ht, hg, -⟩ := State.editChecks_inv ht
    exact setTab_none h.2 ht (h.not_holds_of_planGate ht hg) (Tab.not_holds_of_none rfl)

/-! ### Payment -/

theorem tenderBegin (h : s.HeldOk) (src tab share : Nat) (hsrc : src ≤ 32) : (tenderBegin src tab share s).1.HoldsOk := by
  unfold Machine.tenderBegin
  split
  · exact h.2
  · rename_i t x ht
    obtain ⟨ht, -, hx⟩ := State.tenderChecks_inv ht
    dsimp only
    split
    · rename_i hp
      split
      · exact h.2
      · rename_i hfree
        exact h.2.hold ht hx hp rfl hsrc hfree
    · rename_i till e hp
      split
      · rename_i heq
        refine h.2.setTab ht fun i u => ?_
        rw [Tab.holds_setShare hx]
        rcases eq_or_ne i share with rfl | hne
        · subst heq
          simp [Tab.Holds, hx, hp]
        · simp [hne]
      · exact h.2
    · exact h.2

theorem tenderCancel (h : s.HeldOk) (src tab share : Nat) : (tenderCancel src tab share s).1.HoldsOk := by
  unfold Machine.tenderCancel
  split
  · exact h.2
  · rename_i t x ht
    obtain ⟨ht, -, hx⟩ := State.tenderChecks_inv ht
    repeat' split
    all_goals try exact h.2
    rename_i till e hp heq
    subst heq
    exact h.2.release ht hx hp fun _ _ => by simp

/-- A tab whose shares are all PAID holds none. -/
theorem not_holds_of_allPaid {t : Tab} (h : countShares (t.settlement.getD []) (fun p => !p.isPaid) = 0) (j till : Nat) :
    ¬t.Holds j till := by
  refine Tab.not_holds_of_all (fun x hx => ?_) j till
  have hnone := List.filter_eq_nil_iff.mp (List.length_eq_zero_iff.mp h) x hx
  cases hp : x.pay <;> simp_all [Pay.isPaid, Pay.isHeld]

theorem settle (h : s.HeldOk) {n : Nat} {t : Tab} (ht : s.tab n = some t) (hno : ∀ j till, ¬t.Holds j till) :
    (s.settle n t).HeldOk :=
  State.HeldOk.retireCheck (work.autoSend n _
    ⟨h.1.setTab_lines (State.tab_some ht).2 ((h.1.sound_tab ht).settled _) rfl (Nat.zero_le _),
      setTab_none h.2 ht hno (Tab.not_holds_of_none rfl)⟩) n

theorem acceptTender (h : s.HeldOk) {src tab share e : Nat} (kind : TenderKind) (tendered tip change excess : Nat) {t : Tab}
    {x : Share} (ht : s.tab tab = some t) (hx : t.share share = some x) (hp : x.pay = .held src e) :
    (acceptTender src tab share kind tendered tip change excess t x s).1.HoldsOk := by
  have h1 : State.HeldOk ((s.setTab tab (t.setShare share { x with pay := .paid kind tendered tip change excess src })).setHold src none) :=
    ⟨State.TabsOk.reads (State.setHold_frame _ src none) (by decide) (h.1.setShare (State.tab_some ht).2 share _),
      h.2.release ht hx hp fun _ _ => by simp⟩
  have h2 := fun c => reads (credit_frame _ src c) (by decide) h1
  unfold Machine.acceptTender
  dsimp only
  split
  · rename_i hpaid
    refine (State.HeldOk.settle (h2 _) ?_ (not_holds_of_allPaid hpaid)).2
    rw [State.tab_of ((credit_frame _ _ _).tabs (by decide)), State.tab_setHold]
    exact State.tab_setTab_same s tab _ (State.tab_some ht).1
  · exact (h2 _).2

theorem tenderCommit (h : s.HeldOk) (src tab share kind tendered tip : Nat) :
    (tenderCommit src tab share kind tendered tip s).1.HoldsOk := by
  unfold Machine.tenderCommit
  split
  · exact h.2
  · rename_i t x ht
    obtain ⟨ht, -, hx⟩ := State.tenderChecks_inv ht
    repeat' split
    all_goals try exact h.2
    rename_i till e hp hsrc _ _ _ _
    obtain rfl := Classical.not_not.mp hsrc
    exact h.acceptTender _ _ _ _ _ ht hx hp

/-- A tab that a WRITE-OFF takes holds no share (R159). -/
theorem not_holds_of_writeOff (h : s.HeldOk) {n : Nat} {t : Tab} (ht : s.tab n = some t) (hw : writeOffRefusal t = none)
    (j till : Nat) : ¬t.Holds j till := by
  unfold writeOffRefusal at hw
  split at hw
  · cases hw
  · rename_i ho
    exact (h.1.sound_tab ht).not_holds (by simp [ho]) j till
  · split at hw
    · rename_i hnone
      rintro ⟨x, e, hx, hp⟩
      have hmem := List.filterMap_eq_nil_iff.mp hnone x (Tab.share_mem hx)
      rw [hp] at hmem
      cases hmem
    · cases hw

theorem writeOff (h : s.HeldOk) (n : Nat) : (writeOff n s).1.HoldsOk := by
  unfold Machine.writeOff
  repeat' split
  all_goals try exact h.2
  rename_i t ht _ hw
  have hf := SameBut.foldl State.restore_frame (unsentLines t) { s with writeOffTotal := addCapped s.writeOffTotal (writeOffAmount t).1 }
  have h1 : State.HeldOk ((unsentLines t).foldl State.restore { s with writeOffTotal := addCapped s.writeOffTotal (writeOffAmount t).1 }) :=
    reads hf (by decide) h
  have htab : State.tab ((unsentLines t).foldl State.restore
      { s with writeOffTotal := addCapped s.writeOffTotal (writeOffAmount t).1 }) n = some t :=
    (State.tab_of (hf.tabs (by decide)) n).trans ht
  have hsound : (Tab.settled { t with settlement := t.settlement.map (List.map Share.writtenOff) } true).Sound :=
    (h.1.sound_tab ht).of_lines rfl rfl (by simp [Tab.settled]) (by simp [Tab.settled, Tab.shareCount])
  have h2 : State.HeldOk (State.setTab _ n (Tab.settled { t with settlement := t.settlement.map (List.map Share.writtenOff) } true)) :=
    ⟨h1.1.setTab_lines (State.tab_some htab).2 hsound rfl (Nat.zero_le _),
      setTab_none h1.2 htab (h.not_holds_of_writeOff ht hw) (Tab.not_holds_of_none rfl)⟩
  exact (State.HeldOk.retireCheck
    (Reads.foldl (P := State.HeldOk) (fun _ m hs => work.killAndRestore m hs) (s.unstarted n) _ h2) n).2

theorem owner {i : Instr} {k : ReqKind} {src : Nat} {o : State → State × Reply}
    (hi : ownerOf i = some (k, src, o)) (ha : s.admits k src = true) (h : s.HeldOk) : (o s).1.HeldOk := by
  refine ⟨State.TabsOk.owner hi h.1, ?_⟩
  have hsrc := State.admits_le ha
  by_cases hrecall : ∃ n, i = .recall n
  · obtain ⟨n, rfl⟩ := hrecall
    cases hi
    exact (work.recallRequest _ h).2
  cases i with
  | openTab => cases hi; exact h.openTab _ _ _
  | addLine => cases hi; exact h.addLine _ _ _ _ _
  | voidLine => cases hi; exact h.voidLine _ _ _
  | setLabel => cases hi; exact h.setLabel _ _ _
  | setService => cases hi; exact h.setService _ _ _
  | closeEmpty => cases hi; exact h.closeEmpty _ _
  | mergeTabs => cases hi; exact h.mergeTabs _ _ _ _
  | split => cases hi; exact h.splitRequest _ _ _ _
  | assign => cases hi; exact h.assignRequest _ _ _ _
  | unsplit => cases hi; exact h.unsplitRequest _ _
  | tenderBegin => cases hi; exact h.tenderBegin _ _ _ hsrc
  | tenderCancel => cases hi; exact h.tenderCancel _ _ _
  | tenderCommit => cases hi; exact h.tenderCommit _ _ _ _ _ _
  | writeOff => cases hi; exact h.writeOff _
  | send => cases hi; exact (work.sendRequest _ _ _ h).2
  | killTicket => cases hi; exact (work.killRequest _ h).2
  | bump => cases hi; exact (work.bumpRequest _ _ h).2
  | _ => exact State.HoldsOk.reads.owner hi (by simp [ownerParts] at hrecall ⊢) h.2

theorem expireHold (h : s.HeldOk) (n j : Nat) : (s.expireHold n j).HeldOk := by
  refine ⟨h.1.expireHold n j, ?_⟩
  unfold State.expireHold
  repeat' split
  all_goals try exact h.2
  rename_i t ht _ x hx _ till e hp _
  exact State.HoldsOk.reads (State.notify_frame _ _ _) (by decide)
    (h.2.release ((h.1.tab_eq_find n).trans ht) hx hp fun _ _ => by simp)

theorem cold (cfg : Bool) : (State.cold cfg).HeldOk := by
  refine ⟨State.TabsOk.cold cfg, ?_⟩
  simp [State.HoldsOk, State.tab, State.hold, State.cold]

theorem carried : Carried State.HeldOk where
  link := reads.link (by decide)
  cold := reads.coldKeeping (by decide) cold
  slot s d r := reads (State.setDrop_frame s d _) (by decide)
  owner _ _ _ _ _ hi ha hs := owner hi ha hs
  expire s n j hs := hs.expireHold n j
  window s d := work.endWindow d
  rise s n := reads (rise_frame s n) (by decide)
  due s ns := reads.risesDue (by decide) ns
  tick s := reads.tick (by decide)
  poll s l _ := reads (beginPoll_frame s l) (by decide)
  turn s l w := reads (State.setLane_frame s l _) (by decide)
  miss s l := reads (miss_frame s l) (by decide)
  heard s l := reads (heard_frame s l) (by decide)

end State.HeldOk

/-- Settles O56: a share becomes HELD together with the record of a till that held none, and leaves HELD together with it; no tab
with a HELD share is planned anew, settled, merged or removed. -/
theorem stepKeepsHolds : Obligations.StepKeepsHolds := fun s t hs he => (State.HeldOk.carried.step s t hs he).2

/-- Settles O60: with every table empty and every record at its cold start value, each law holds of itself. -/
theorem coldStartMeetsLaws : Obligations.ColdStartMeetsLaws := fun cfg =>
  ⟨fun _ => rfl, State.TabsOk.cold cfg, by simp [State.TicketsOk, State.cold], (State.HeldOk.cold cfg).2,
    State.alertsOk_empty rfl rfl, State.dropsOk_cold rfl, State.SettingsOk.cold cfg, State.StationsOk.cold cfg,
    State.MoneyOk.zeroed rfl rfl, State.MenuOk.cold cfg⟩

end Sys2Proof.Machine

/-! PROOFS. What holds of every command: a step runs the command that has waited longest (O1), every command completes and leaves
the queue of waiting commands alone (O2), a request turned away changes nothing but the place of its answer (O3), and outside
operation nothing but the reset and chip select is seen (O4). -/

namespace Sys2Proof.Machine

/-! ### A step -/

theorem step_cons {s : State} {c : Instr} {rest : List Instr} (h : s.pending = c :: rest) :
    step s = exec c { s with pending := rest } := by
  simp [step, h]

theorem step_nil {s : State} (h : s.pending = []) : step s = .next s := by
  simp [step, h]

/-- Settles O1: both clauses are the two arms of `step`. -/
theorem stepRunsFrontCommand : Obligations.StepRunsFrontCommand := ⟨fun _ _ _ h => step_cons h, fun _ h => step_nil h⟩

/-! ### Completion -/

/-- The outcome is a next state with the queue of waiting commands of `s`. -/
def CompletesFrom (s : State) (o : Outcome) : Prop := ∃ t, o = .next t ∧ t.pending = s.pending

theorem CompletesFrom.next {s t : State} (h : t.pending = s.pending) : CompletesFrom s (.next t) := ⟨t, rfl, h⟩

/-- A change that leaves the queue out completes. -/
theorem CompletesFrom.frame {ps : List Part} {s t : State} (h : SameBut ps s t) (hp : Part.pending ∉ ps) :
    CompletesFrom s (.next t) := .next (h.pending hp)

theorem CompletesFrom.of_pending {s u : State} {o : Outcome} (h : CompletesFrom u o) (hp : u.pending = s.pending) :
    CompletesFrom s o := by
  obtain ⟨t, ht, hq⟩ := h
  exact ⟨t, ht, hq.trans hp⟩

theorem State.place_pending (s : State) (src : Nat) (r : Result) : (s.place src r).pending = s.pending :=
  (State.place_frame s src r).pending (by decide)

/-- No owner touches the queue of waiting commands. -/
theorem ownerParts_pending (i : Instr) : Part.pending ∉ ownerParts i := by
  cases i <;> simp [ownerParts]

theorem owner_pending {i : Instr} {k : ReqKind} {src : Nat} {o : State → State × Reply} (h : ownerOf i = some (k, src, o))
    (s : State) : (o s).1.pending = s.pending :=
  (owner_frame h s).pending (ownerParts_pending i)

/-- A request completes whether it is turned away or taken, and outside operation too. -/
theorem CompletesFrom.request {i : Instr} {k : ReqKind} {src : Nat} {o : State → State × Reply}
    (h : ownerOf i = some (k, src, o)) (s : State) : CompletesFrom s (Machine.request k src o s) := by
  rcases eq_or_ne s.mode .operating with hm | hm
  · cases hk : s.mayAsk k src with
    | false => exact request_role hm hk ▸ .next (State.place_pending ..)
    | true =>
      cases hg : gateOpen k s.period with
      | false => exact request_period hm hk hg ▸ .next (State.place_pending ..)
      | true =>
        rw [request_admitted ((State.admits_iff s k src).mpr ⟨hm, hk, hg⟩)]
        exact .next ((State.place_pending ..).trans (owner_pending h s))
  · exact request_silent hm ▸ .next rfl

/-- What a frame carries completes, whether it is EMPTY, malformed or a request. -/
theorem CompletesFrom.frameTaken {src kind : Nat} {payload : List Byte} {empty : State → State}
    (hempty : ∀ s, (empty s).pending = s.pending) (s : State) : CompletesFrom s (takeFrame src kind payload empty s) := by
  unfold takeFrame
  split
  · exact .next (hempty s)
  · split
    · exact .next (State.place_pending ..)
    · rename_i i _
      cases ho : ownerOf i with
      | none => exact takeRequest_event ho s ▸ .next rfl
      | some x =>
        obtain ⟨k, src', o⟩ := x
        exact takeRequest_request ho s ▸ .request ho s

/-! ### The part's own events -/

theorem execResetHold_completes (c : ResetCause) (s : State) : CompletesFrom s (execResetHold c s) := by
  cases c with
  | pinLow => exact .next rfl
  | supplyNotGood => exact .next rfl

theorem State.clearCause_pending (s : State) (c : ResetCause) : (s.clearCause c).pending = s.pending := by
  cases c with
  | pinLow => rfl
  | supplyNotGood => rfl

theorem execResetRelease_completes (c : ResetCause) (cfg : Bool) (s : State) : CompletesFrom s (execResetRelease c cfg s) := by
  unfold execResetRelease
  dsimp only
  split
  · split
    · exact .next (State.clearCause_pending s c)
    · exact .next (State.clearCause_pending s c)
  · exact .next rfl

theorem execSettleEnd_completes (s : State) : CompletesFrom s (execSettleEnd s) := by
  unfold execSettleEnd
  split
  · exact .next rfl
  · exact .next rfl

theorem State.tick_pending (s : State) : s.tick.pending = s.pending := rfl

theorem execSecondsTick_completes (s : State) : CompletesFrom s (execSecondsTick s) := by
  unfold execSecondsTick
  split
  · exact .next ((State.tick_pending _).trans ((takeOutstanding_frame s).pending (by decide)))
  · exact .next rfl

theorem execHoldExpiry_completes (n j : Nat) (s : State) : CompletesFrom s (execHoldExpiry n j s) := by
  unfold execHoldExpiry
  split
  · exact .frame (expireHold_frame s n j) (by decide)
  · exact .next rfl

theorem execRecallWindowExpiry_completes (d : Nat) (s : State) : CompletesFrom s (execRecallWindowExpiry d s) := by
  unfold execRecallWindowExpiry
  split
  · exact .frame (endWindow_frame s d) (by decide)
  · exact .next rfl

theorem execOverdueRise_completes (n : Nat) (s : State) : CompletesFrom s (execOverdueRise n s) := by
  unfold execOverdueRise
  split
  · exact .next rfl
  · rename_i r rest _
    split
    · exact .next ((rise_frame s r.ticket).pending (by decide))
    · exact .next rfl

theorem execPoll_completes (l : Fin 4) (s : State) : CompletesFrom s (execPoll l s) := by
  unfold execPoll
  split
  · exact .frame (beginPoll_frame s l) (by decide)
  · exact .next rfl

theorem execPollEnd_completes (l : Fin 4) (s : State) : CompletesFrom s (execPollEnd l s) := by
  unfold execPollEnd
  split
  · exact .next rfl
  · exact .next rfl

theorem execAnswerMiss_completes (l : Fin 4) (s : State) : CompletesFrom s (execAnswerMiss l s) := by
  unfold execAnswerMiss
  split
  · exact .frame (miss_frame s l) (by decide)
  · exact .next rfl

theorem execGoodAnswer_completes (l : Fin 4) (cs : List LaneChar) (s : State) : CompletesFrom s (execGoodAnswer l cs s) := by
  unfold execGoodAnswer
  split
  · split
    · exact .frame (miss_frame s l) (by decide)
    · exact (CompletesFrom.frameTaken (fun _ => rfl) _).of_pending ((heard_frame s l).pending (by decide))
  · exact .next rfl

theorem execChipSelectFall_completes (us : Nat) (s : State) : CompletesFrom s (execChipSelectFall us s) := by
  unfold execChipSelectFall
  split
  · split
    · exact .next rfl
    · exact .next rfl
  · exact .next rfl

theorem execChipSelectRise_completes (bs : List Byte) (s : State) : CompletesFrom s (execChipSelectRise bs s) := by
  unfold execChipSelectRise
  split
  · exact .next rfl
  · exact .next rfl
  · dsimp only
    split
    · exact .next (State.place_pending ..)
    · refine CompletesFrom.of_pending (u := { s with transfer := .none }) (CompletesFrom.frameTaken ?_ _) rfl
      exact fun _ => rfl

/-- Settles O2: a request completes with its owner, and each of the part's own events completes. -/
theorem everyCommandCompletes : Obligations.EveryCommandCompletes := by
  intro c s
  show CompletesFrom s (exec c s)
  cases ho : ownerOf c with
  | some x =>
    obtain ⟨k, src, o⟩ := x
    exact exec_request ho s ▸ .request ho s
  | none =>
    cases c with
    | resetHold cause => exact execResetHold_completes cause s
    | resetRelease cause cfg => exact execResetRelease_completes cause cfg s
    | settleEnd => exact execSettleEnd_completes s
    | secondsTick => exact execSecondsTick_completes s
    | holdExpiry n j => exact execHoldExpiry_completes n j s
    | recallWindowExpiry d => exact execRecallWindowExpiry_completes d s
    | overdueRise n => exact execOverdueRise_completes n s
    | poll l => exact execPoll_completes l s
    | pollEnd l => exact execPollEnd_completes l s
    | answerMiss l => exact execAnswerMiss_completes l s
    | goodAnswer l cs => exact execGoodAnswer_completes l cs s
    | chipSelectFall us => exact execChipSelectFall_completes us s
    | chipSelectRise bs => exact execChipSelectRise_completes bs s
    | _ => cases ho

/-! ### Requests turned away -/

/-- Every request has an owner, with the kind of its frame and its source. -/
theorem ownerOf_request {i : Instr} {k : ReqKind} {src : Nat} (hk : kindOf i = some k) (hs : sourceOf i = some src) :
    ∃ o, ownerOf i = some (k, src, o) := by
  cases i <;> cases hk <;> cases hs <;> exact ⟨_, rfl⟩

/-- Settles O3: the role check and the period gate stand before the owner. -/
theorem turnedAwayRequestChangesNothing : Obligations.TurnedAwayRequestChangesNothing := by
  intro i k src s hk hs hm
  obtain ⟨o, ho⟩ := ownerOf_request hk hs
  unfold Answers
  rw [exec_request ho]
  exact ⟨fun hr => request_role hm hr, fun hr hg => request_period hm hr hg⟩

/-! ### Outside operation -/

theorem State.alertPin_silent {s : State} (h : s.mode ≠ .operating) : s.alertPin = false := by
  simp [State.alertPin, h]

theorem State.dirPin_silent {s : State} (h : s.mode ≠ .operating) (l : Fin 4) : s.dirPin l = false := by
  unfold State.dirPin
  split
  · exact absurd ‹s.mode = .operating› h
  · rfl

theorem State.laneFrames_silent {s : State} (h : s.mode ≠ .operating) (l : Fin 4) : s.laneFrames l = [] := by
  unfold State.laneFrames
  split
  · exact absurd ‹s.mode = .operating› h
  · rfl

/-- Outside operation an event of the lanes or of time leaves the state as it is. -/
theorem exec_event_silent {i : Instr} {s : State} (ho : ownerOf i = none) (h : s.mode ≠ .operating)
    (h1 : ∀ c, i ≠ .resetHold c) (h2 : ∀ c b, i ≠ .resetRelease c b) (h3 : i ≠ .settleEnd) (h4 : ∀ us, i ≠ .chipSelectFall us)
    (h5 : ∀ bs, i ≠ .chipSelectRise bs) : exec i s = .next s := by
  cases i with
  | resetHold c => exact absurd rfl (h1 c)
  | resetRelease c b => exact absurd rfl (h2 c b)
  | settleEnd => exact absurd rfl h3
  | chipSelectFall us => exact absurd rfl (h4 us)
  | chipSelectRise bs => exact absurd rfl (h5 bs)
  | secondsTick => exact if_neg h
  | holdExpiry n j => exact if_neg h
  | recallWindowExpiry d => exact if_neg h
  | overdueRise n =>
    show execOverdueRise n s = .next s
    unfold execOverdueRise
    split
    · rfl
    · exact if_neg fun hr => h hr.1
  | poll l => exact if_neg fun hr => h hr.1
  | pollEnd l =>
    show execPollEnd l s = .next s
    unfold execPollEnd
    split
    · exact absurd ‹s.mode = .operating› h
    · rfl
  | answerMiss l =>
    show execAnswerMiss l s = .next s
    unfold execAnswerMiss
    split
    · exact absurd ‹s.mode = .operating› h
    · rfl
  | goodAnswer l cs =>
    show execGoodAnswer l cs s = .next s
    unfold execGoodAnswer
    split
    · exact absurd ‹s.mode = .operating› h
    · rfl
  | _ => cases ho

/-- Settles O4: no request is taken outside operation, no event of the lanes or of time has an effect, and the pins idle. -/
theorem silentOutsideOperation : Obligations.SilentOutsideOperation := by
  intro i s h h1 h2 h3 h4 h5
  refine ⟨?_, State.alertPin_silent h, fun l => ⟨State.dirPin_silent h l, State.laneFrames_silent h l⟩⟩
  cases ho : ownerOf i with
  | some x =>
    obtain ⟨k, src, o⟩ := x
    rw [exec_request ho, request_silent h]
  | none => exact exec_event_silent ho h h1 h2 h3 h4 h5

end Sys2Proof.Machine

/-! PROOFS. The concourse controller's requests about the part itself: the tax rates (O22), the drawers (O47), the period and day
clear (O49), the lanes' settings (O50, O51) and READ-CONFIG (O52). -/

namespace Sys2Proof.Machine

/-! ### LOAD-TAX (R26) -/

theorem State.taxRate_setTaxRate_same (s : State) (c r : Nat) : (s.setTaxRate c r).taxRate c = r := by
  simp [State.taxRate, State.setTaxRate]

theorem State.taxRate_setTaxRate_other (s : State) {c e : Nat} (r : Nat) (hc : c ≤ 7) (he : e ≤ 7) (h : e ≠ c) :
    (s.setTaxRate c r).taxRate e = s.taxRate e := by
  have hne : c % 8 ≠ e % 8 := by omega
  simp [State.taxRate, State.setTaxRate, hne]

theorem loadTax_refused {cls : Nat} (rate : Nat) (s : State) (h : 7 < cls) : loadTax cls rate s = (s, refuse .badValue []) :=
  if_pos h

theorem loadTax_stores {cls : Nat} (rate : Nat) (s : State) (h : cls ≤ 7) :
    loadTax cls rate s = (s.setTaxRate cls (min 2500 rate), okWith [u8 cls, u16 (min 2500 rate)]) :=
  if_neg (Nat.not_lt.mpr h)

/-- Settles O22: LOAD-TAX has two outcomes, which the class chooses. -/
theorem loadTaxStoresRate : Obligations.LoadTaxStoresRate := by
  intro cls rate s hm hp
  have ha : s.admits .loadTax 0 = true := State.admits_controller hm rfl (by rw [hp]; rfl)
  refine ⟨fun h => answers_of_owner rfl ha (loadTax_refused rate s h), fun h => ?_⟩
  exact ⟨_, answers_of_owner rfl ha (loadTax_stores rate s h), State.setTaxRate_frame .., State.taxRate_setTaxRate_same ..,
    fun c hc hne => State.taxRate_setTaxRate_other s _ h hc hne⟩

/-! ### Drawers (R158) -/

theorem readDrawer_refused {d : Nat} (s : State) (h : 32 < d) : readDrawer d s = (s, refuse .badValue []) := if_pos h

theorem readDrawer_answers {d : Nat} (s : State) (h : d ≤ 32) : readDrawer d s = (s, s.drawerAnswer d) :=
  if_neg (Nat.not_lt.mpr h)

theorem closeDrawer_refused {d : Nat} (s : State) (h : 32 < d) : closeDrawer d s = (s, refuse .badValue []) := if_pos h

theorem closeDrawer_zeroes {d : Nat} (s : State) (h : d ≤ 32) : closeDrawer d s = (s.setDrawer d .zero, s.drawerAnswer d) :=
  if_neg (Nat.not_lt.mpr h)

theorem toNat_eq_ite (b : Bool) : b.toNat = if b = true then 1 else 0 := by
  cases b with
  | false => rfl
  | true => rfl

/-- The answer of both drawer requests, field by field in R156's order. -/
theorem State.drawerAnswer_eq (s : State) (d : Nat) :
    s.drawerAnswer d = okWith
      [u32 (s.drawer d).cashCount, u32 (s.drawer d).cardCount, u32 (s.drawer d).voucherCount, u32 (s.drawer d).cashAmount,
        u32 (s.drawer d).cardAmount, u32 (s.drawer d).voucherAmount, u32 (s.drawer d).excess, u32 (s.drawer d).tips,
        u32 (s.drawer d).change, u32 (s.drawer d).sharesPaid, u8 (if (s.drawer d).saturated = true then 1 else 0),
        u32 s.writeOffTotal] := by
  rw [State.drawerAnswer, toNat_eq_ite]
  rfl

/-- Settles O47: both requests are admitted in every period, and their outcomes are chosen by the number alone. -/
theorem drawerReadAndClose : Obligations.DrawerReadAndClose := by
  intro d s hm x answer
  have har : s.admits .readDrawer 0 = true := State.admits_controller hm rfl rfl
  have hac : s.admits .closeDrawer 0 = true := State.admits_controller hm rfl rfl
  have hanswer : s.drawerAnswer d = answer := State.drawerAnswer_eq s d
  refine ⟨fun h => ⟨answers_of_owner rfl har (readDrawer_refused s h), answers_of_owner rfl hac (closeDrawer_refused s h)⟩,
    fun h => ⟨answers_of_owner rfl har (hanswer ▸ readDrawer_answers s h), ?_⟩⟩
  refine ⟨_, answers_of_owner rfl hac (hanswer ▸ closeDrawer_zeroes s h), State.setDrawer_frame .., ?_, ?_, ?_⟩
  · rw [State.drawer_setDrawer_same]
    simp [Drawer.amounts, Drawer.zero]
  · rw [State.drawer_setDrawer_same]
    rfl
  · exact fun m hle hne => State.drawer_setDrawer_other s d m _ h hle hne

/-! ### The period (R2 to R5) -/

theorem periodMove_iff (a b : Period) :
    periodMove a b = true ↔ (a, b) ∈ [(Period.prep, Period.service), (.service, .lastCall), (.service, .closeOut),
      (.lastCall, .service), (.lastCall, .closeOut), (.closeOut, .closed)] := by
  cases a <;> cases b <;> decide

theorem periodOf_unknown {n : Nat} (h : 4 < n) : periodOf n = none := by
  obtain ⟨k, rfl⟩ : ∃ k, n = k + 5 := ⟨n - 5, by omega⟩
  rfl

theorem setPeriod_unknown {target : Nat} (s : State) (h : 4 < target) : setPeriod target s = (s, refuse .badValue []) := by
  simp [setPeriod, periodOf_unknown h]

section
variable {s : State} {p : Period}

theorem setPeriod_noMove (h : ¬periodMove s.period p = true) : setPeriod p.code s = (s, refuse .badState []) := by
  simp [setPeriod, periodOf_code, h]

theorem setPeriod_busy (h : periodMove s.period p = true) (hp : p = .closed) (ht : s.tabs ≠ []) :
    setPeriod p.code s = (s, refuse .busy [u16 s.tabs.length]) := by
  simp [setPeriod, periodOf_code, h, ← hp, ht]

theorem setPeriod_moves (h : periodMove s.period p = true) (ht : p = .closed → s.tabs = []) :
    setPeriod p.code s = (s.changePeriod p, okWith [u8 p.code, u32 s.clock]) := by
  have hfree : ¬(p = .closed ∧ s.tabs ≠ []) := fun hb => hb.2 (ht hb.1)
  simp only [setPeriod, periodOf_code, h, Bool.true_eq_false, if_false, if_neg hfree]

end

/-- A change that leaves the lanes and the drops alone leaves alone who gets a notice. -/
theorem NoticeForPresent.of_same {s t u : State} {n : Notice} (h : NoticeForPresent n t u) (hl : t.lanes = s.lanes)
    (hd : t.drops = s.drops) : NoticeForPresent n s u := by
  intro d
  have hx := h d
  rwa [State.isTill_of hl, State.drop_of hd] at hx

theorem State.changePeriod_notices (s : State) (p : Period) : NoticeForPresent (.period p s.clock) s (s.changePeriod p) :=
  (State.notifyPresent_spec { s with period := p } _).of_same rfl rfl

theorem State.changePeriod_period (s : State) (p : Period) : (s.changePeriod p).period = p :=
  (State.notifyPresent_frame { s with period := p } _).period (by decide)

theorem State.drawer_dayClear (s : State) (n : Nat) : s.dayClear.drawer n = .zero := by
  simp [State.drawer, State.dayClear]

/-- Day clear with the change to PREP: what each field it touches holds after it. -/
theorem endDay_effect (s : State) :
    let v := (endDay s).1
    (v.period = .prep ∧ v.writeOffTotal = 0 ∧ v.tabCounter = 1 ∧ v.ticketCounter = 1 ∧ v.alerts = [] ∧ v.alertsFull = false) ∧
      (∀ n, v.drawer n = .zero) ∧
      (∀ d, isDrop d = true → v.station d = { s.station d with p16 := (s.station d).defaultPrep * 16, lastBumped := none }) ∧
      NoticeForPresent (.period .prep s.clock) s v := by
  have hf := changePeriod_frame s.dayClear .prep
  refine ⟨⟨State.changePeriod_period _ _, hf.writeOffTotal (by decide), hf.tabCounter (by decide), hf.ticketCounter (by decide),
    hf.alerts (by decide), hf.alertsFull (by decide)⟩, fun n => ?_, fun d hd => ?_, ?_⟩
  · exact (State.drawer_of (hf.drawers (by decide)) n).trans (State.drawer_dayClear s n)
  · exact (State.station_of (hf.stations (by decide)) d).trans (State.station_map s _ d hd)
  · exact (State.changePeriod_notices s.dayClear .prep).of_same rfl rfl

/-- Settles O49: the outcome of SET-PERIOD is chosen by the table of moves and by the tabs; END-DAY is admitted in CLOSED alone. -/
theorem periodMovesAndDayClear : Obligations.PeriodMovesAndDayClear := by
  intro s hm
  have ha : s.admits .setPeriod 0 = true := State.admits_controller hm rfl rfl
  refine ⟨fun target h => answers_of_owner rfl ha (setPeriod_unknown s h), fun p => ?_, fun hp => ?_, fun hp => ?_⟩
  · dsimp only
    rw [← periodMove_iff]
    refine ⟨fun h => answers_of_owner rfl ha (setPeriod_noMove h), fun h hp ht => answers_of_owner rfl ha (setPeriod_busy h hp ht),
      fun h ht => ⟨_, answers_of_owner rfl ha (setPeriod_moves h ht), changePeriod_frame s p, State.changePeriod_period s p, ?_⟩⟩
    exact State.changePeriod_notices s p
  · exact request_period hm (State.mayAsk_controller s _) (by simp [gateOpen, hp])
  · have hae : s.admits .endDay 0 = true := State.admits_controller hm rfl (by rw [hp]; rfl)
    exact ⟨_, answers_of_owner rfl hae rfl, endDay_frame s, endDay_effect s⟩

/-! ### LANE-RESTART and SET-LANE-ROLE (R168, R170) -/

theorem laneOfCode_val (l : Fin 4) : laneOfCode l.val = some l := by
  simp [laneOfCode]

theorem laneOfCode_unknown {n : Nat} (h : 3 < n) : laneOfCode n = none := dif_neg (by omega)

theorem roleOfCode_unknown {n : Nat} (h : 1 < n) : roleOfCode n = none := by
  obtain ⟨k, rfl⟩ : ∃ k, n = k + 2 := ⟨n - 2, by omega⟩
  rfl

theorem laneRestart_refused {lane : Nat} (s : State) (h : 3 < lane) : laneRestart lane s = (s, refuse .badValue []) := by
  simp [laneRestart, laneOfCode_unknown h]

theorem laneRestart_restarts (l : Fin 4) (s : State) : laneRestart l.val s = (s.restartLane l, okWith [u8 l.val]) := by
  simp [laneRestart, laneOfCode_val]

theorem setLaneRole_refused {lane role : Nat} (s : State) (h : 3 < lane ∨ 1 < role) :
    setLaneRole lane role s = (s, refuse .badValue []) := by
  rcases h with h | h
  · simp [setLaneRole, laneOfCode_unknown h]
  · simp [setLaneRole, roleOfCode_unknown h]

theorem setLaneRole_same {s : State} {l : Fin 4} {r : Role} (h : (s.lane l).role = r) :
    setLaneRole l.val r.code s = (s, okWith [u8 l.val, u8 r.code]) := by
  simp [setLaneRole, laneOfCode_val, roleOfCode_code, h]

theorem setLaneRole_changes {s : State} {l : Fin 4} {r : Role} (h : (s.lane l).role ≠ r) :
    setLaneRole l.val r.code s =
      ((s.setLane l { s.lane l with role := r }).restartLane l, okWith [u8 l.val, u8 r.code]) := by
  simp [setLaneRole, laneOfCode_val, roleOfCode_code, h]

/-- The restart of a lane that has just taken settings of its own restarts it in the part as it stood. -/
theorem RestartsLane.of_setLane {l : Fin 4} {s v : State} {x : Lane} (h : RestartsLane l (s.setLane l x) v) : RestartsLane l s v := by
  obtain ⟨hown, hother, hdrops, hrest⟩ := h
  exact ⟨hown, fun m hm => (hother m hm).trans (State.lane_setLane_other s l m x hm), hdrops, hrest⟩

/-- Settles O51: the outcomes are chosen by the codes and, for SET-LANE-ROLE, by the role the lane has. -/
theorem laneRestartAndRole : Obligations.LaneRestartAndRole := by
  intro s hm
  have har : s.admits .laneRestart 0 = true := State.admits_controller hm rfl rfl
  refine ⟨fun lane h => answers_of_owner rfl har (laneRestart_refused s h), fun l => ?_, fun hp => ?_⟩
  · exact ⟨_, answers_of_owner rfl har (laneRestart_restarts l s), restartLane_frame s l, State.restartLane_spec s l⟩
  · have has : s.admits .setLaneRole 0 = true := State.admits_controller hm rfl (by rw [hp]; rfl)
    refine ⟨fun lane role h => answers_of_owner rfl has (setLaneRole_refused s h), fun l r =>
      ⟨fun h => answers_of_owner rfl has (setLaneRole_same h), fun h => ?_⟩⟩
    obtain ⟨hspec, hlane⟩ := State.restartLane_spec (s.setLane l { s.lane l with role := r }) l
    rw [State.lane_setLane_same] at hlane
    exact ⟨_, answers_of_owner rfl has (setLaneRole_changes h),
      (State.setLane_frame s l _).step (restartLane_frame _ l) (by decide) (by decide), hspec.of_setLane, hlane⟩

/-! ### SET-CONFIG (R145, R169, R185) -/

theorem setConfig_refused (hold : Nat) {w : Vector (Nat × Nat) 4} (s : State) (h : ∃ l : Fin 4, 3 < w[l].1) :
    setConfig hold w s = (s, refuse .badValue []) := by
  obtain ⟨l, hl⟩ := h
  have hnone := rateOf_none _ hl
  unfold setConfig
  split
  · fin_cases l <;> simp_all
  · rfl

/-- The state with the settings of four lanes stored, each in its turn (R185). -/
def State.configAll (s : State) (rate : Fin 4 → Rate) (window : Fin 4 → Nat) : State :=
  (((s.configLane 0 (rate 0) (window 0)).configLane 1 (rate 1) (window 1)).configLane 2 (rate 2) (window 2)).configLane 3
    (rate 3) (window 3)

/-- What the settings of one lane leave of that lane and of its drops. -/
structure ConfiguresLane (l : Fin 4) (rate : Rate) (window : Nat) (s v : State) : Prop where
  lane : v.lane l =
    if (s.lane l).rate = rate then { s.lane l with window := clamp 2 20 window }
    else { s.lane l with rate := rate, window := clamp 2 20 window, passCount := 0, position := 1, phase := .ready }
  drop : ∀ d, isDrop d = true → laneOf d = l → v.drop d = if (s.lane l).rate ≠ rate then .cold else s.drop d
  view : ∀ d, isDrop d = true → laneOf d = l → v.view d = if (s.lane l).rate ≠ rate then none else s.view d

/-- Neither a lane nor its drops nor their views nor the controller's view differ. -/
structure SameLane (l : Fin 4) (s v : State) : Prop where
  lane : v.lane l = s.lane l
  drop : ∀ d, isDrop d = true → laneOf d = l → v.drop d = s.drop d
  view : ∀ d, isDrop d = true → laneOf d = l → v.view d = s.view d

theorem State.configLane_own (s : State) (l : Fin 4) (r : Rate) (w : Nat) : ConfiguresLane l r w s (s.configLane l r w) := by
  obtain ⟨-, hlane, hdrop, hview, -⟩ := State.configLane_spec s l r w
  exact ⟨hlane, fun d hd hl => by simpa [hl] using hdrop d hd, fun d hd hl => by simpa [hl] using hview d hd⟩

theorem State.configLane_other (s : State) {l m : Fin 4} (h : m ≠ l) (r : Rate) (w : Nat) : SameLane m s (s.configLane l r w) := by
  obtain ⟨hlane, -, hdrop, hview, -⟩ := State.configLane_spec s l r w
  exact ⟨hlane m h, fun d hd hl => by simpa [hl, h] using hdrop d hd, fun d hd hl => by simpa [hl, h] using hview d hd⟩

theorem SameLane.trans {l : Fin 4} {s t u : State} (a : SameLane l s t) (b : SameLane l t u) : SameLane l s u :=
  ⟨b.lane.trans a.lane, fun d hd hl => (b.drop d hd hl).trans (a.drop d hd hl),
    fun d hd hl => (b.view d hd hl).trans (a.view d hd hl)⟩

theorem ConfiguresLane.after {l : Fin 4} {r : Rate} {w : Nat} {s t u : State} (a : SameLane l s t)
    (b : ConfiguresLane l r w t u) : ConfiguresLane l r w s u := by
  obtain ⟨hlane, hdrop, hview⟩ := b
  rw [a.lane] at hlane
  refine ⟨hlane, fun d hd hl => ?_, fun d hd hl => ?_⟩
  · rw [hdrop d hd hl, a.lane, a.drop d hd hl]
  · rw [hview d hd hl, a.lane, a.view d hd hl]

theorem ConfiguresLane.before {l : Fin 4} {r : Rate} {w : Nat} {s t u : State} (a : ConfiguresLane l r w s t)
    (b : SameLane l t u) : ConfiguresLane l r w s u :=
  ⟨b.lane.trans a.lane, fun d hd hl => (b.drop d hd hl).trans (a.drop d hd hl),
    fun d hd hl => (b.view d hd hl).trans (a.view d hd hl)⟩

/-- Each of the four lanes is configured once, and the other three steps leave it alone. -/
theorem State.configAll_lane (s : State) (rate : Fin 4 → Rate) (window : Fin 4 → Nat) (l : Fin 4) :
    ConfiguresLane l (rate l) (window l) s (s.configAll rate window) := by
  have own (t : State) (m : Fin 4) := t.configLane_own m (rate m) (window m)
  have other (t : State) {m n : Fin 4} (h : n ≠ m) := t.configLane_other h (rate m) (window m)
  unfold State.configAll
  obtain rfl | rfl | rfl | rfl : l = 0 ∨ l = 1 ∨ l = 2 ∨ l = 3 := by omega
  · exact (own _ 0).before (((other _ (by decide)).trans (other _ (by decide))).trans (other _ (by decide)))
  · exact .after (other _ (by decide)) ((own _ 1).before ((other _ (by decide)).trans (other _ (by decide))))
  · exact .after ((other _ (by decide)).trans (other _ (by decide))) ((own _ 2).before (other _ (by decide)))
  · exact .after (((other _ (by decide)).trans (other _ (by decide))).trans (other _ (by decide))) (own _ 3)

theorem State.configAll_view (s : State) (rate : Fin 4 → Rate) (window : Fin 4 → Nat) :
    (s.configAll rate window).view 0 = s.view 0 := by
  have step (t : State) (l : Fin 4) : (t.configLane l (rate l) (window l)).view 0 = t.view 0 := by
    obtain ⟨-, -, -, -, h⟩ := State.configLane_spec t l (rate l) (window l)
    exact h
  unfold State.configAll
  rw [step, step, step, step]

/-- The state with the hold time and the settings of four lanes stored (R185). -/
def State.configured (s : State) (hold : Nat) (rate : Fin 4 → Rate) (window : Fin 4 → Nat) : State :=
  ({ s with holdTime := clamp 10 300 hold } : State).configAll rate window

theorem State.configured_lane (s : State) (hold : Nat) (rate : Fin 4 → Rate) (window : Fin 4 → Nat) (l : Fin 4) :
    ConfiguresLane l (rate l) (window l) s (s.configured hold rate window) :=
  .after (t := { s with holdTime := clamp 10 300 hold }) ⟨rfl, fun _ _ _ => rfl, fun _ _ _ => rfl⟩ (State.configAll_lane ..)

theorem State.configured_view (s : State) (hold : Nat) (rate : Fin 4 → Rate) (window : Fin 4 → Nat) :
    (s.configured hold rate window).view 0 = s.view 0 := State.configAll_view { s with holdTime := clamp 10 300 hold } rate window

theorem State.configured_holdTime (s : State) (hold : Nat) (rate : Fin 4 → Rate) (window : Fin 4 → Nat) :
    (s.configured hold rate window).holdTime = max 10 (min 300 hold) := by
  unfold State.configured State.configAll
  rw [(configFour_frame { s with holdTime := clamp 10 300 hold } _ _ _ _ _ _ _ _).holdTime (by decide)]
  exact clamp_eq 10 300 hold (by decide)

/-- A SET-CONFIG whose rates are all known stores the hold time and the four lanes' settings. -/
theorem setConfig_stores (hold : Nat) {w : Vector (Nat × Nat) 4} (s : State) {rate : Fin 4 → Rate}
    (h : ∀ l : Fin 4, rateOf w[l].1 = some (rate l)) :
    let v := s.configured hold rate fun l => w[l].2
    setConfig hold w s = (v, okWith
      [u16 v.holdTime, u8 (rate 0).code, u8 (rate 1).code, u8 (rate 2).code, u8 (rate 3).code, u8 (v.lane 0).window,
        u8 (v.lane 1).window, u8 (v.lane 2).window, u8 (v.lane 3).window,
        u8 (s.restartBit 0 (rate 0) + s.restartBit 1 (rate 1) + s.restartBit 2 (rate 2) + s.restartBit 3 (rate 3))]) := by
  have h0 : rateOf w[0].1 = some (rate 0) := h 0
  have h1 : rateOf w[1].1 = some (rate 1) := h 1
  have h2 : rateOf w[2].1 = some (rate 2) := h 2
  have h3 : rateOf w[3].1 = some (rate 3) := h 3
  simp only [setConfig, h0, h1, h2, h3]
  rfl

/-- The window a lane has once it is configured, whether it was restarted or not. -/
theorem ConfiguresLane.window {l : Fin 4} {r : Rate} {w : Nat} {s v : State} (h : ConfiguresLane l r w s v) :
    (v.lane l).window = max 2 (min 20 w) := by
  rw [h.lane, ← clamp_eq 2 20 w (by decide)]
  split
  · rfl
  · rfl

theorem ConfiguresLane.role {l : Fin 4} {r : Rate} {w : Nat} {s v : State} (h : ConfiguresLane l r w s v) :
    (v.lane l).role = (s.lane l).role := by
  rw [h.lane]
  split
  · rfl
  · rfl

theorem ConfiguresLane.rate {l : Fin 4} {r : Rate} {w : Nat} {s v : State} (h : ConfiguresLane l r w s v) :
    (v.lane l).rate = r := by
  rw [h.lane]
  split
  · assumption
  · rfl

theorem rate_code_eq_iff (a b : Rate) : a.code = b.code ↔ a = b := ⟨rate_code_inj a b, congrArg _⟩

/-- Settles O50: an unknown rate refuses the request; known rates are stored lane by lane, and each lane reads as its own
settings left it. -/
theorem setConfigStoresSettings : Obligations.SetConfigStoresSettings := by
  intro hold w s hm
  have ha : s.admits .setConfig 0 = true := State.admits_controller hm rfl rfl
  refine ⟨fun h => answers_of_owner rfl ha (setConfig_refused hold s h), fun h => ?_⟩
  intro window changed
  choose rate hrate hcode using fun l : Fin 4 => rateOf_some _ (h l)
  have hset := setConfig_stores hold s hrate
  have hframe := setConfig_frame hold w s
  rw [hset] at hframe
  dsimp only at hframe
  have hlanes := State.configured_lane s hold rate fun l => w[l].2
  have hbit (l : Fin 4) : s.restartBit l (rate l) = changed l := by
    simp only [State.restartBit, changed, ← hcode l, rate_code_eq_iff]
  refine ⟨s.configured hold rate fun l => w[l].2, ?_, hframe, State.configured_holdTime ..,
    State.configured_view .., fun l => ?_⟩
  · refine answers_of_owner (owner := setConfig hold w) rfl ha ?_
    rw [hset, State.configured_holdTime, (hlanes 0).window, (hlanes 1).window, (hlanes 2).window, (hlanes 3).window,
      hbit, hbit, hbit, hbit, hcode, hcode, hcode, hcode]
    rfl
  · have hl := hlanes l
    simp only [← hcode l, ne_eq, rate_code_eq_iff]
    refine ⟨hl.rate, hl.window, hl.role, fun heq => ⟨?_, fun d hd hd' => ⟨?_, ?_⟩⟩, fun hne => ⟨?_, fun d hd hd' => ⟨?_, ?_⟩⟩⟩
    · rw [hl.lane, if_pos heq, clamp_eq 2 20 _ (by decide)]
    · rw [hl.drop d hd hd', if_neg (not_not.mpr heq)]
    · rw [hl.view d hd hd', if_neg (not_not.mpr heq)]
    · rw [hl.lane, if_neg hne]
      exact ⟨rfl, rfl, rfl⟩
    · rw [hl.drop d hd hd', if_pos hne]
    · rw [hl.view d hd hd', if_pos hne]

/-! ### READ-CONFIG (R186) -/

/-- A number with the bits given below place n. -/
def bitSum (p : Nat → Bool) (n : Nat) : Nat := ((List.range n).map fun i => if p i then 2 ^ i else 0).sum

theorem bitSum_succ (p : Nat → Bool) (n : Nat) : bitSum p (n + 1) = (if p n then 2 ^ n else 0) + bitSum p n := by
  simp [bitSum, List.range_succ, Nat.add_comm]

theorem bitSum_lt (p : Nat → Bool) (n : Nat) : bitSum p n < 2 ^ n := by
  induction n with
  | zero => simp [bitSum]
  | succ n ih =>
    rw [bitSum_succ, Nat.pow_succ]
    split
    · omega
    · omega

theorem testBit_bitSum (p : Nat → Bool) (n i : Nat) (h : i < n) : (bitSum p n).testBit i = p i := by
  induction n with
  | zero => omega
  | succ n ih =>
    have htop : (bitSum p n).testBit n = false := Nat.testBit_lt_two_pow (bitSum_lt p n)
    rw [bitSum_succ]
    rcases Nat.lt_succ_iff_lt_or_eq.mp h with hi | rfl
    · cases hp : p n with
      | true => rw [if_pos rfl, Nat.testBit_two_pow_add_gt hi, ih hi]
      | false => rw [if_neg Bool.false_ne_true, Nat.zero_add, ih hi]
    · cases hp : p i with
      | true => rw [if_pos rfl, Nat.testBit_two_pow_add_eq, htop, Bool.not_false]
      | false => rw [if_neg Bool.false_ne_true, Nat.zero_add, htop]

theorem State.presenceBits_eq (s : State) : s.presenceBits = bitSum (fun i => (s.drop (i + 1)).present) 32 := by
  simp [State.presenceBits, bitSum, allDrops, List.range'_eq_map_range, Function.comp_def, Nat.add_comm]

theorem Role.code_eq (r : Role) : r.code = (decide (r = .kitchen)).toNat := by
  cases r with
  | till => rfl
  | kitchen => rfl

theorem nibble_bits : ∀ a b c d : Bool, a.toNat + 2 * b.toNat + 4 * c.toNat + 8 * d.toNat < 16 ∧
    ∀ l : Fin 4, (a.toNat + 2 * b.toNat + 4 * c.toNat + 8 * d.toNat).testBit l.val = #v[a, b, c, d][l] := by
  decide

theorem State.roleBits_spec (s : State) :
    s.roleBits < 16 ∧ ∀ l : Fin 4, s.roleBits.testBit l.val = decide ((s.lane l).role = .kitchen) := by
  have hbits := nibble_bits (decide ((s.lane 0).role = .kitchen)) (decide ((s.lane 1).role = .kitchen))
    (decide ((s.lane 2).role = .kitchen)) (decide ((s.lane 3).role = .kitchen))
  rw [← Role.code_eq, ← Role.code_eq, ← Role.code_eq, ← Role.code_eq] at hbits
  refine ⟨hbits.1, fun l => (hbits.2 l).trans ?_⟩
  fin_cases l <;> rfl

/-- Settles O52: READ-CONFIG changes nothing, and its two bit fields are read bit by bit. -/
theorem readConfigReportsFreeCounts : Obligations.ReadConfigReportsFreeCounts := by
  intro s hm
  have ha : s.admits .readConfig 0 = true := State.admits_controller hm rfl rfl
  refine ⟨s.roleBits, s.presenceBits, answers_of_owner rfl ha ?_, State.roleBits_spec s, ?_, fun d hd => ?_⟩
  · rw [List.countP_eq_length_filter]
    rfl
  · exact State.presenceBits_eq s ▸ bitSum_lt _ 32
  · have h := (isDrop_iff d).mp hd
    rw [State.presenceBits_eq, testBit_bitSum _ _ _ (by omega), Nat.sub_add_cancel h.1]

end Sys2Proof.Machine

/-! PROOFS. The menu table's mark (O23) and the tab store's requests on one tab: OPEN-TAB (O24), ADD-LINE (O25), the common checks,
SET-LABEL and SET-SERVICE (O27), CLOSE-EMPTY (O28), FIND-TAB (O30) and READ-TAB (O31). -/

namespace Sys2Proof.Machine

/-! ### MARK-SOLD-OUT (R32, R33) -/

/-- The state a mark leaves: the count, the alert, the notices. -/
def State.markedSoldOut (s : State) (item : Nat) (i : Item) : State :=
  ((s.setItem item { i with stock := some 0 }).enterAlert .soldOut item).notifyPresent (.soldOut item i.name)

theorem markSoldOut_noItem {item : Nat} {s : State} (h : s.item item = none) : markSoldOut item s = (s, refuse .noItem []) := by
  simp [markSoldOut, h]

theorem markSoldOut_marks {item : Nat} {s : State} {i : Item} (h : s.item item = some i) :
    markSoldOut item s = (s.markedSoldOut item i, okWith [stockData i.stock]) := by
  simp [markSoldOut, h, State.markedSoldOut]

/-- A mark's alert and notices leave the item records as its count left them. -/
theorem State.markedSoldOut_item (s : State) (item : Nat) (i : Item) (x : Nat) :
    (s.markedSoldOut item i).item x = (s.setItem item { i with stock := some 0 }).item x :=
  State.item_of (((State.notifyPresent_frame _ _).items (by decide)).trans ((State.enterAlert_frame _ _ _).items (by decide))) x

theorem State.markedSoldOut_alerts (s : State) (item : Nat) (i : Item) :
    SameAlerts (s.enterAlert .soldOut item) (s.markedSoldOut item i) :=
  (SameAlerts.enter (s := s) (t := s.setItem item { i with stock := some 0 }) ⟨rfl, rfl, rfl⟩ _ _).trans
    (SameAlerts.frame (ps := [.drops]) (State.notifyPresent_frame _ _) (by decide) (by decide) (by decide))

theorem State.markedSoldOut_notices (s : State) (item : Nat) (i : Item) :
    NoticeForPresent (.soldOut item i.name) s (s.markedSoldOut item i) :=
  have hf := State.enterAlert_frame (s.setItem item { i with stock := some 0 }) .soldOut item
  (State.notifyPresent_spec _ _).of_same (hf.lanes (by decide)) (hf.drops (by decide))

/-- Settles O23: a mark of an item that is there is its three effects, each read at its own place. -/
theorem markSoldOutZeroesCount : Obligations.MarkSoldOutZeroesCount := by
  intro src item s ha
  refine ⟨fun h => answers_of_owner rfl ha (markSoldOut_noItem h), fun i h => ?_⟩
  have hmark := markSoldOut_marks h
  have hframe := markSoldOut_frame item s
  rw [hmark] at hframe
  obtain ⟨hfull, hmarker, -⟩ := State.markedSoldOut_alerts s item i
  refine ⟨_, answers_of_owner rfl ha hmark, hframe, ?_, fun x hx => ?_, by rw [hfull, hmarker], State.markedSoldOut_notices s item i⟩
  · rw [State.markedSoldOut_item, State.item_setItem_same s item _ (State.isItemNumber_of_item h)]
  · rw [State.markedSoldOut_item, State.item_setItem_other s item x _ hx]

/-! ### A tab stored anew -/

/-- Storing a tab that stands in the table changes that tab and nothing else. -/
theorem State.setTab_effect {s : State} {n : Nat} {t : Tab} (ht : s.tab n = some t) (x : Tab) :
    SameBut [.tabs] s (s.setTab n x) ∧ (s.setTab n x).tab n = some x ∧ ∀ m, m ≠ n → (s.setTab n x).tab m = s.tab m :=
  ⟨State.setTab_frame s n x, State.tab_setTab_same s n x (State.tab_some ht).1, fun m hm => State.tab_setTab_other s n m x hm⟩

/-! ### OPEN-TAB (R36, R37, R46) -/

/-- The state an OPEN-TAB leaves, the number it takes given. -/
def State.opened (s : State) (n : Nat) (t : Tab) : State := { s.setTab n t with tabCounter := if n = 9999 then 1 else n + 1 }

theorem State.opened_frame (s : State) (n : Nat) (t : Tab) : SameBut [.tabs, .tabCounter] s (s.opened n t) :=
  (State.setTab_frame s n t).step (qs := [.tabCounter])
    (by constructor <;> intro hn <;> first | rfl | exact absurd (by simp) hn) (by decide) (by decide)

theorem openTab_opens {src kind : Nat} {label : List Byte} {s : State} (hk : kind ≤ 1) (hl : printable label = true)
    (hroom : s.tabs.length < 1024) :
    openTab src kind label s =
      (s.opened s.freshTab (Tab.fresh (if kind = 0 then .running else .payFirst) src label), okWith [u16 s.freshTab, u16 0]) := by
  have hkind : tabKindOf kind = some (if kind = 0 then .running else .payFirst) := by
    obtain rfl | rfl : kind = 0 ∨ kind = 1 := by omega
    · rfl
    · rfl
  have hslots : ¬Config.tabSlots ≤ s.tabs.length := Nat.not_le.mpr hroom
  simp only [openTab, hkind, hl, Bool.true_eq_false, if_false, if_neg hslots]
  rfl

/-- The number a new tab takes (R37). -/
theorem State.freshTab_spec {s : State} (hroom : s.tabs.length < 1024) (hc : 1 ≤ s.tabCounter ∧ s.tabCounter ≤ 9999) :
    (1 ≤ s.freshTab ∧ s.freshTab ≤ 9999) ∧ s.tab s.freshTab = none ∧ (s.tab s.tabCounter = none → s.freshTab = s.tabCounter) := by
  have hspec := firstFree_spec (s.tabs.map Prod.fst) 9999 (by rw [List.length_map]; omega) s.tabCounter hc
  rw [List.length_map] at hspec
  obtain ⟨hrange, hfree, hsame⟩ := hspec
  have hrange : 1 ≤ s.freshTab ∧ s.freshTab ≤ 9999 := hrange
  exact ⟨hrange, (State.tab_none_iff s _ hrange).mpr hfree, fun h => hsame ((State.tab_none_iff s _ hc).mp h)⟩

/-- Settles O24: with a slot free and the fields in range OPEN-TAB has one outcome, at the first free number. -/
theorem openTabTakesFreshNumber : Obligations.OpenTabTakesFreshNumber := by
  intro src kind label s ha hk hl hroom hc
  obtain ⟨hrange, hfree, hsame⟩ := State.freshTab_spec hroom hc
  refine ⟨s.freshTab, _, answers_of_owner rfl ha (openTab_opens hk ((printable_iff label).mpr hl) hroom), hrange, hfree, hsame,
    State.opened_frame .., rfl, fun m hm => State.tab_setTab_other s _ m _ hm, ?_⟩
  exact State.tab_setTab_same s _ _ hrange

/-! ### The common checks of an edit (R44, R126) -/

theorem State.editChecks_noTab {s : State} {tab : Nat} (rev : Nat) (gate : Tab → Option Reply) (h : s.tab tab = none) :
    s.editChecks tab rev gate = .error (refuse .noTab []) := by
  simp [State.editChecks, h]

theorem State.editChecks_gate {s : State} {tab : Nat} {t : Tab} {gate : Tab → Option Reply} {r : Reply} (rev : Nat)
    (h : s.tab tab = some t) (hg : gate t = some r) : s.editChecks tab rev gate = .error r := by
  simp [State.editChecks, h, hg]

theorem State.editChecks_stale {s : State} {tab rev : Nat} {t : Tab} {gate : Tab → Option Reply} (h : s.tab tab = some t)
    (hg : gate t = none) (hr : t.revision ≠ rev) : s.editChecks tab rev gate = .error (refuse .stale [u16 t.revision]) := by
  simp [State.editChecks, h, hg, hr]

/-- The eight edits that name one tab. -/
theorem editOf_kind {i : Instr} {k : ReqKind} {tab rev : Nat} (h : editOf i = some (k, tab, rev)) :
    k ∈ [ReqKind.addLine, .voidLine, .setLabel, .setService, .closeEmpty, .split, .assign, .unsplit] := by
  cases i <;> cases h <;> decide

/-! ### SET-LABEL and SET-SERVICE (R55, R56) -/

theorem setLabel_stores {tab rev : Nat} {t : Tab} {s : State} {label : List Byte} (ht : s.tab tab = some t)
    (hr : t.revision = rev) (hst : t.state ≠ .settled) (hl : printable label = true) :
    setLabel tab rev label s =
      (s.setTab tab { t with label := label, revision := (rev + 1) % 65536 }, okWith [u16 ((rev + 1) % 65536)]) := by
  have hchecks := State.editChecks_ok ht (gate := notSettled) (by simp [notSettled, hst]) hr
  subst hr
  simp only [setLabel, hchecks, hl, Bool.true_eq_false, if_false]
  rfl

/-- The tab with a service rate stored and its totals recomputed (R56). -/
def State.withService (s : State) (t : Tab) (rate : Nat) : Tab :=
  { t with
    serviceRate := min 2500 rate
    totals := totalsOf s.taxRate (min 2500 rate) t.lines
    revision := (t.revision + 1) % 65536 }

theorem setService_stores {tab rev : Nat} {t : Tab} {s : State} (rate : Nat) (ht : s.tab tab = some t) (hr : t.revision = rev)
    (hst : t.state = .opened) :
    setService tab rev rate s = (s.setTab tab (s.withService t rate),
      okWith [u16 ((rev + 1) % 65536), u16 (min 2500 rate), u32 (totalsOf s.taxRate (min 2500 rate) t.lines).total]) := by
  have hchecks := State.editChecks_ok ht (onlyOpen_opened hst) hr
  subst hr
  simp only [setService, hchecks]
  rfl

/-- Settles O27: the three common refusals stand in `editChecks`, in the order of R44; past them each of the two edits has one
outcome. -/
theorem labelAndServiceEdits : Obligations.LabelAndServiceEdits := by
  refine ⟨fun i k src tab rev s hi hs ha => ⟨fun h => ?_, fun t ht => ⟨fun h => ?_, fun h hr => ?_⟩⟩, ?_⟩
  · exact editChecks_answer hi hs ha (State.editChecks_noTab rev _ h)
  · exact editChecks_answer hi hs ha (State.editChecks_gate rev ht ((gateOf_spec k (editOf_kind hi) t).2 h))
  · exact editChecks_answer hi hs ha (State.editChecks_stale ht ((gateOf_spec k (editOf_kind hi) t).1 h) hr)
  · intro src tab rev t s ht hr
    refine ⟨fun label ha hst hl => ?_, fun rate ha hst => ?_⟩
    · exact ⟨_, answers_of_owner rfl ha (setLabel_stores ht hr hst ((printable_iff label).mpr hl)), State.setTab_effect ht _⟩
    · refine ⟨_, answers_of_owner rfl ha (setService_stores rate ht hr hst), ?_⟩
      subst hr
      exact State.setTab_effect ht _

/-! ### CLOSE-EMPTY (R57) -/

theorem activeLines_eq_nil_iff (ls : List Line) : activeLines ls = [] ↔ ∀ l ∈ ls, l.voided = true := by
  simp [activeLines]

theorem activeLines_length (ls : List Line) : (activeLines ls).length = ls.countP fun l => !l.voided :=
  (List.countP_eq_length_filter ..).symm

section
variable {tab rev : Nat} {t : Tab} {s : State} (ht : s.tab tab = some t) (hst : t.state = .opened) (hr : t.revision = rev)
include ht hst hr

theorem closeEmpty_removes (he : activeLines t.lines = []) :
    closeEmpty tab rev s = (s.removeTab tab, okWith [u16 ((rev + 1) % 65536)]) := by
  have hchecks := State.editChecks_ok ht (onlyOpen_opened hst) hr
  subst hr
  simp only [closeEmpty, hchecks, if_pos he]
  rfl

theorem closeEmpty_refused (he : activeLines t.lines ≠ []) :
    closeEmpty tab rev s = (s, refuse .badState [u8 (t.lines.countP fun l => !l.voided)]) := by
  simp only [closeEmpty, State.editChecks_ok ht (onlyOpen_opened hst) hr, if_neg he, activeLines_length]

end

/-- Settles O28: the ACTIVE lines choose between the removal and the refusal. -/
theorem closeEmptyRemovesTab : Obligations.CloseEmptyRemovesTab := by
  intro src tab rev t s ha ht hst hr
  refine ⟨fun h => ?_, fun ⟨l, hl, hv⟩ => ?_⟩
  · exact ⟨_, answers_of_owner rfl ha (closeEmpty_removes ht hst hr ((activeLines_eq_nil_iff _).mpr h)), State.removeTab_spec s tab⟩
  · refine answers_of_owner rfl ha (closeEmpty_refused ht hst hr fun he => ?_)
    exact absurd ((activeLines_eq_nil_iff _).mp he l hl) (by simp [hv])

/-! ### FIND-TAB (R63, R64) -/

theorem Tab.matches_iff (t : Tab) (form : Nat) (key : List Byte) :
    t.matches form key = true ↔ if form = 0 then t.label ≠ [] ∧ key <+: t.label else t.openingTill = unbe key := by
  unfold Tab.matches
  split
  · simp [List.isPrefixOf_iff_prefix]
  · simp

theorem keyOk_of {form : Nat} {key : List Byte}
    (h : (form = 0 ∧ (1 ≤ key.length ∧ key.length ≤ 16) ∧ (∀ b ∈ key, 0x20 ≤ b.toNat ∧ b.toNat ≤ 0x7E)) ∨
      (form = 1 ∧ unbe key ≤ 32)) : keyOk form key = true := by
  rcases h with ⟨rfl, ⟨h1, h2⟩, h3⟩ | ⟨rfl, h1⟩
  · simp [keyOk, h1, h2, (printable_iff key).mpr h3]
  · simp [keyOk, h1]

theorem State.mem_searchTabs (s : State) (form start : Nat) (key : List Byte) (e : Nat × Tab) :
    e ∈ s.searchTabs form start key ↔ e ∈ s.tabs ∧ start < e.1 ∧
      if form = 0 then e.2.label ≠ [] ∧ key <+: e.2.label else e.2.openingTill = unbe key := by
  rw [State.searchTabs, List.mem_filter, Bool.and_eq_true, decide_eq_true_eq, Tab.matches_iff]

theorem State.searchTabs_rising {s : State} (h : s.tabs.Rising) (form start : Nat) (key : List Byte) :
    (s.searchTabs form start key).Rising :=
  List.Pairwise.sublist (List.Sublist.map _ List.filter_sublist) h

theorem findTab_lists {form start : Nat} {key : List Byte} (s : State) (hk : keyOk form key = true) (hs : start ≤ 9999) :
    findTab form start key s = (s, ⟨.ok, if 8 < (s.searchTabs form start key).length then 4 else 0,
      ((s.searchTabs form start key).take 8).flatMap fun e => [u16 e.1, u8 e.2.state.code]⟩) := by
  have hpass : ¬(keyOk form key = false ∨ Config.maxTabNumber < start) := by
    rw [hk]
    simp only [Bool.true_eq_false, false_or]
    exact Nat.not_lt.mpr hs
  simp [findTab, if_neg hpass, highMark_eq_ite]

/-- Settles O30: the hits are the search of the model, in the table's order. -/
theorem findTabListsMatches : Obligations.FindTabListsMatches := by
  intro src form start key s ha hs hkey
  exact ⟨s.searchTabs form start key, State.mem_searchTabs s form start key, fun h => State.searchTabs_rising h form start key,
    answers_of_owner rfl ha (findTab_lists s (keyOk_of hkey) hs)⟩

/-! ### READ-TAB (R66, R71 to R74) -/

/-- The largest of a list, started at a number, bounds them all and is one of them. -/
theorem foldl_max_spec (l : List Nat) (a : Nat) :
    a ≤ l.foldl max a ∧ (∀ x ∈ l, x ≤ l.foldl max a) ∧ (l.foldl max a = a ∨ l.foldl max a ∈ l) := by
  induction l generalizing a with
  | nil => simp
  | cons y rest ih =>
    obtain ⟨hle, hall, hmem⟩ := ih (max a y)
    rw [List.foldl_cons]
    refine ⟨(Nat.le_max_left a y).trans hle, ?_, ?_⟩
    · intro x hx
      rcases List.mem_cons.mp hx with rfl | hx
      · exact (Nat.le_max_right a x).trans hle
      · exact hall x hx
    · rcases hmem with hm | hm
      · rw [hm]
        rcases Nat.le_total a y with h | h
        · exact .inr (by simp [Nat.max_eq_right h])
        · exact .inl (Nat.max_eq_left h)
      · exact .inr (List.mem_cons_of_mem y hm)

theorem Tab.hasPage_zero (t : Tab) : t.hasPage 0 = true := by
  simp [Tab.hasPage]

theorem Tab.hasPage_lt {t : Tab} {q : Nat} (h : t.hasPage q = true) : q < 20 := by
  simp only [Tab.hasPage, Bool.or_eq_true, Bool.and_eq_true, decide_eq_true_eq] at h
  omega

theorem Tab.le_lastPage {t : Tab} {q : Nat} (h : t.hasPage q = true) : q ≤ t.lastPage := by
  obtain ⟨-, hall, -⟩ := foldl_max_spec ((List.range 20).filter t.hasPage) 0
  exact hall q (List.mem_filter.mpr ⟨List.mem_range.mpr (Tab.hasPage_lt h), h⟩)

theorem Tab.hasPage_lastPage (t : Tab) : t.hasPage t.lastPage = true := by
  obtain ⟨-, -, hmem⟩ := foldl_max_spec ((List.range 20).filter t.hasPage) 0
  rcases hmem with h | h
  · exact (congrArg t.hasPage h).trans t.hasPage_zero
  · exact (List.mem_filter.mp h).2

/-- The last page is the one with none above it. -/
theorem Tab.eq_lastPage_iff {t : Tab} {page : Nat} (h : t.hasPage page = true) :
    page = t.lastPage ↔ ∀ q, page < q → t.hasPage q = false := by
  constructor
  · rintro rfl q hq
    exact Bool.eq_false_iff.mpr fun hp => absurd (Tab.le_lastPage hp) (Nat.not_le.mpr hq)
  · intro hnone
    refine Nat.le_antisymm (Tab.le_lastPage h) (Nat.not_lt.mp fun hlt => ?_)
    exact Bool.false_ne_true ((hnone _ hlt).symm.trans t.hasPage_lastPage)

/-- The view once a page is served: the last page releases a view that names the tab. -/
def viewAfter (seen : ViewFlag × Option View) (last : Bool) : Option View := if last && seen.1 != .unheld then none else seen.2

theorem followView_current {v : Option View} {tab rev p : Nat} (h : p = 0 ∨ v = some ⟨tab, rev⟩) :
    followView v tab rev p = (.held, some ⟨tab, rev⟩) := by
  rcases h with rfl | rfl
  · simp [followView]
  · simp [followView]

theorem followView_older {tab rev r p : Nat} (hp : p ≠ 0) (hr : r ≠ rev) :
    followView (some ⟨tab, r⟩) tab rev p = (.renewed, some ⟨tab, rev⟩) := by
  simp [followView, hp, hr]

theorem followView_none {v : Option View} {tab p : Nat} (rev : Nat) (hp : p ≠ 0) (h : ∀ r, v ≠ some ⟨tab, r⟩) :
    followView v tab rev p = (.unheld, v) := by
  cases v with
  | none => simp [followView, hp]
  | some w =>
    have hne : w.tab ≠ tab := fun he => h w.rev (by rw [← he])
    simp [followView, hp, hne]

section
variable {src tab page : Nat} {t : Tab} {s : State} (ht : s.tab tab = some t)
include ht

theorem readTab_noPage (hp : t.hasPage page = false) :
    readTab src tab page s = (s, refuse .noPage [u16 t.revision, u8 t.lines.length, u8 t.shareCount]) := by
  simp [readTab, ht, hp]

theorem readTab_serves (hp : t.hasPage page = true) :
    readTab src tab page s =
      (s.setView src (viewAfter (followView (s.view src) tab t.revision page) (decide (page = t.lastPage))),
        ⟨.ok, (followView (s.view src) tab t.revision page).1.code + 4 * (decide (page = t.lastPage)).toNat,
          u16 t.revision :: t.page tab page⟩) := by
  simp only [readTab, ht, hp, Bool.true_eq_false, if_false]
  rfl

end

/-- Settles O31: the page chooses the refusal; of a page served, the requester's view chooses the flag, and both choose the view
left. -/
theorem readTabFollowsView : Obligations.ReadTabFollowsView := by
  intro src tab page t s ha hsrc ht
  refine ⟨fun hp => answers_of_owner rfl ha (readTab_noPage ht hp), fun hp => ?_⟩
  refine ⟨_, _, (decide (page = t.lastPage)).toNat, answers_of_owner rfl ha (readTab_serves ht hp), State.setView_frame .., ?_, ?_, ?_,
    fun h => ?_, fun h0 r hr hv => ?_, fun h0 hv => ?_⟩
  · exact fun m hm hne => State.view_setView_other s src m _ hsrc hm hne
  · exact Bool.toNat_le _
  · rw [Bool.toNat_eq_one, decide_eq_true_eq]
    exact Tab.eq_lastPage_iff hp
  · rw [followView_current h, State.view_setView_same]
    refine ⟨rfl, ?_⟩
    cases decide (page = t.lastPage) <;> rfl
  · rw [hv, followView_older h0 hr, State.view_setView_same]
    refine ⟨rfl, ?_⟩
    cases decide (page = t.lastPage) <;> rfl
  · rw [followView_none _ h0 hv, State.view_setView_same]
    refine ⟨rfl, ?_⟩
    cases decide (page = t.lastPage) <;> rfl

/-! ### ADD-LINE (R28, R29, R42, R48, R49) -/

section
variable {s : State} {item qty : Nat} {mods : List Nat} {it : Item}

theorem State.wrongEntry_none (hi : s.item item = some it) (hk : it.kind = .plain)
    (hm : ∀ m ∈ mods, ∃ im, s.item m = some im ∧ im.kind = .modifier) : s.wrongEntry item mods = none := by
  simp only [State.wrongEntry, hi, hk, beq_self_eq_true, Bool.true_eq_false, if_false, List.find?_eq_none]
  intro m hmem
  obtain ⟨im, him, hkind⟩ := hm m hmem
  simp [him, hkind]

theorem State.restrictedEntry_none (hi : s.item item = some it) (hr : it.restricted = false)
    (hm : ∀ m ∈ mods, ∃ im, s.item m = some im ∧ im.restricted = false) : s.restrictedEntry item mods = none := by
  rw [State.restrictedEntry, List.find?_eq_none]
  intro m hmem
  rcases List.mem_cons.mp hmem with rfl | hmem
  · simp [hi, hr]
  · obtain ⟨im, him, hfree⟩ := hm m hmem
    simp [him, hfree]

/-- No count is short when each covers its demand (R28). -/
theorem State.shortItem_none
    (h : ∀ x ∈ item :: mods, ∀ i c, s.item x = some i → i.stock = some c → qty * (item :: mods).count x ≤ c) :
    s.shortItem item mods qty = none := by
  rw [State.shortItem, List.find?_eq_none]
  intro x hx
  cases hix : s.item x with
  | none => simp
  | some i =>
    cases hst : i.stock with
    | none => simp [hst]
    | some c =>
      have hc := h x ((mem_distinct _ _).mp hx) i c hix hst
      simp [hst, placesOf, Nat.not_lt.mpr hc]

/-- The line an ADD-LINE of a defined item makes (R39, R49). -/
theorem State.newLine_eq (s : State) (n qty : Nat) (mods : List Nat) (hi : s.item item = some it) :
    s.newLine n item qty mods =
      { index := n, item := item, qty := qty, mods := mods,
        unitPrice := it.price + (mods.map fun m => ((s.item m).map Item.price).getD 0).sum, cls := it.cls, voided := false,
        stage := if it.route = none then .none else .unsent, ticket := none, shares := 0 } := by
  have hstage : (if it.route.isSome = true then Stage.unsent else .none) = if it.route = none then .none else .unsent := by
    cases it.route <;> rfl
  simp [State.newLine, State.unitPrice, hi, hstage]

end

/-- What an item's record is once a reserve has taken its units. -/
theorem State.reserve_item_some {s : State} {x : Nat} {i : Item} (item : Nat) (mods : List Nat) (q : Nat) (h : s.item x = some i) :
    (s.reserve item mods q).item x = some { i with stock := i.stock.map (· - q * (item :: mods).count x) } := by
  rw [State.reserve_item, h]
  split
  · rfl
  · rename_i hx
    rw [List.count_eq_zero.mpr hx]
    simp

/-- The entries a reserve hands the alert table: those of each item in line order, as its record then stands (R29). -/
theorem State.reserve_alerts (s : State) (item : Nat) (mods : List Nat) (q : Nat) :
    SameAlerts (s.enterAll ((distinct (item :: mods)).flatMap (s.reserve item mods q).keysAt)) (s.reserve item mods q) := by
  have hlow := SameBut.foldl (fun st x => State.takeStock_frame st x (q * placesOf item mods x)) (distinct (item :: mods)) s
  have hkeys := SameBut.foldl (fun st x => State.stockAlerts_frame st x) (distinct (item :: mods))
    ((distinct (item :: mods)).foldl (fun st x => st.takeStock x (q * placesOf item mods x)) s)
  have hsame : (s.reserve item mods q).keysAt =
      State.keysAt ((distinct (item :: mods)).foldl (fun st x => st.takeStock x (q * placesOf item mods x)) s) := by
    funext x
    simp only [State.keysAt, State.reserve, State.item_of (hkeys.items (by decide))]
  rw [hsame]
  exact ((SameAlerts.frame hlow (by decide) (by decide) (by decide)).all _).trans (State.stockAlerts_fold _ _)

/-- The entries of a reserve, spelled out from the records before it (R29). -/
def State.reserveKeys (s : State) (item : Nat) (mods : List Nat) (q : Nat) : List (AlertKind × Nat) :=
  (distinct (item :: mods)).flatMap fun x => match s.item x with
    | some i => (i.stock.map fun c => stockKeys x i.lowMark (c - q * (item :: mods).count x)).getD []
    | none => []

theorem State.reserve_keys (s : State) (item : Nat) (mods : List Nat) (q : Nat) :
    (distinct (item :: mods)).flatMap (s.reserve item mods q).keysAt = s.reserveKeys item mods q := by
  refine List.flatMap_congr fun x hx => ?_
  rw [State.keysAt, State.reserve_item, if_pos ((mem_distinct _ _).mp hx)]
  cases s.item x with
  | none => rfl
  | some i =>
    cases hst : i.stock with
    | none => simp [hst]
    | some c => simp [hst]

/-- The tab with a line appended, its totals recomputed and its revision raised (R49). -/
def State.withLine (s : State) (t : Tab) (l : Line) : Tab :=
  { t with
    lines := t.lines ++ [l]
    nextIndex := t.nextIndex + 1
    totals := totalsOf s.taxRate t.serviceRate (t.lines ++ [l])
    revision := (t.revision + 1) % 65536 }

/-- The state an ADD-LINE leaves that passes every check (R28, R42, R49). -/
def State.lineAdded (s : State) (tab item qty : Nat) (mods : List Nat) (t : Tab) (l : Line) : State :=
  ((s.reserve item mods qty).setTab tab (s.withLine t l)).poolCheck

/-- The free line records once a line is appended to a tab. -/
theorem State.freeLines_append {s u : State} {n : Nat} {t x : Tab} (hrise : s.tabs.Rising) (ht : s.tab n = some t)
    (hu : u.tabs = s.tabs.put n x) (hx : x.lines.length = t.lines.length + 1) : u.freeLines = s.freeLines - 1 := by
  have hsum := Table.sum_put s.tabs (fun y => y.lines.length) hrise n t x (State.tab_some ht).2
  unfold State.freeLines State.linesInUse
  rw [hu]
  omega

section
variable {tab rev item qty : Nat} {mods : List Nat} {t : Tab} {it : Item} {s : State}

/-- What an ADD-LINE has to pass before the line pool is asked: the checks common to every edit and the first four of R48. -/
structure PassesToPool (s : State) (tab rev item qty : Nat) (mods : List Nat) (t : Tab) (it : Item) : Prop where
  tabThere : s.tab tab = some t
  opened : t.state = .opened
  revision : t.revision = rev
  itemThere : s.item item = some it
  plain : it.kind = .plain
  modifiers : ∀ m ∈ mods, ∃ im, s.item m = some im ∧ im.kind = .modifier ∧ (s.period = .lastCall → im.restricted = false)
  allowed : s.period = .lastCall → it.restricted = false
  count : 1 ≤ qty ∧ qty ≤ 99
  index : t.nextIndex ≤ 64
  goods : t.totals.goods + qty * (it.price + (mods.map fun m => ((s.item m).map Item.price).getD 0).sum) ≤ 9999999

/-- Past those checks ADD-LINE is what the line pool and the stock make of it. -/
theorem PassesToPool.addLine (h : PassesToPool s tab rev item qty mods t it) :
    addLine tab rev item qty mods s =
      if s.freeLines = 0 then (s.enterAlert .poolLow 0, refuse .full [])
      else match s.shortItem item mods qty with
      | some x => (s, refuse .soldOut [u16 x])
      | none =>
        (s.lineAdded tab item qty mods t (s.newLine t.nextIndex item qty mods),
          okWith [u16 ((rev + 1) % 65536), u8 t.nextIndex,
            u32 (totalsOf s.taxRate t.serviceRate (t.lines ++ [s.newLine t.nextIndex item qty mods])).total]) := by
  have hwrong : s.wrongEntry item mods = none :=
    State.wrongEntry_none h.itemThere h.plain fun m hm => let ⟨im, him, hk, _⟩ := h.modifiers m hm; ⟨im, him, hk⟩
  have hrestricted : (if s.period = .lastCall then s.restrictedEntry item mods else none) = none := by
    split
    · rename_i hp
      exact State.restrictedEntry_none h.itemThere (h.allowed hp) fun m hm =>
        let ⟨im, him, _, hr⟩ := h.modifiers m hm; ⟨im, him, hr hp⟩
    · rfl
  have hqty : ¬(qty < 1 ∨ 99 < qty) := by
    have := h.count
    omega
  have hlimit : ¬(Config.tabLines < t.nextIndex ∨
      Config.maxGoods < t.totals.goods + (s.newLine t.nextIndex item qty mods).goods) := by
    rw [State.newLine_eq s _ _ _ h.itemThere]
    exact not_or.mpr ⟨Nat.not_lt.mpr h.index, Nat.not_lt.mpr h.goods⟩
  have hrates : (s.reserve item mods qty).taxRate = s.taxRate :=
    State.taxRate_fun ((State.reserve_frame s item mods qty).taxRates (by decide))
  have hchecks := State.editChecks_ok h.tabThere (onlyOpen_opened h.opened) h.revision
  obtain rfl := h.revision
  simp only [Machine.addLine, hchecks, addLineTo, hwrong, if_neg hqty, hrestricted, if_neg hlimit, State.withTotals, hrates]
  rfl

theorem PassesToPool.addLine_full (h : PassesToPool s tab rev item qty mods t it) (hf : s.freeLines = 0) :
    Machine.addLine tab rev item qty mods s = (s.enterAlert .poolLow 0, refuse .full []) := by
  rw [h.addLine, if_pos hf]

theorem PassesToPool.addLine_appends (h : PassesToPool s tab rev item qty mods t it) (hf : 0 < s.freeLines)
    (hs : s.shortItem item mods qty = none) :
    Machine.addLine tab rev item qty mods s =
      (s.lineAdded tab item qty mods t (s.newLine t.nextIndex item qty mods),
        okWith [u16 ((rev + 1) % 65536), u8 t.nextIndex,
          u32 (totalsOf s.taxRate t.serviceRate (t.lines ++ [s.newLine t.nextIndex item qty mods])).total]) := by
  rw [h.addLine, if_neg (Nat.pos_iff_ne_zero.mp hf), hs]

end

section
variable (s : State) (tab item qty : Nat) (mods : List Nat) {t : Tab} (l : Line)

/-- The tab and the pool check leave the item records as the reserve left them. -/
theorem State.lineAdded_item (x : Nat) : (s.lineAdded tab item qty mods t l).item x = (s.reserve item mods qty).item x :=
  State.item_of ((State.poolCheck_frame _).items (by decide)) x

theorem State.lineAdded_tab (n : Nat) :
    (s.lineAdded tab item qty mods t l).tab n = (s.setTab tab (s.withLine t l)).tab n := by
  have hpool := (State.poolCheck_frame ((s.reserve item mods qty).setTab tab (s.withLine t l))).tabs (by decide)
  have hres := (State.reserve_frame s item mods qty).tabs (by decide)
  refine State.tab_of (hpool.trans ?_) n
  rw [State.setTab, State.setTab, hres]

theorem State.lineAdded_drop (d : Nat) : OnlyNotices (s.drop d) ((s.lineAdded tab item qty mods t l).drop d) := by
  have hpool := (State.poolCheck_frame ((s.reserve item mods qty).setTab tab (s.withLine t l))).drops (by decide)
  rw [State.lineAdded, State.drop_of hpool]
  exact State.reserve_only s item mods qty d

theorem State.lineAdded_alerts (hrise : s.tabs.Rising) (ht : s.tab tab = some t) :
    ((s.lineAdded tab item qty mods t l).alerts, (s.lineAdded tab item qty mods t l).alertsFull) =
      s.entered (s.reserveKeys item mods qty ++ if s.freeLines - 1 < 256 then [(.poolLow, 0)] else []) := by
  have hres : SameAlerts (s.enterAll (s.reserveKeys item mods qty)) ((s.reserve item mods qty).setTab tab (s.withLine t l)) := by
    rw [← State.reserve_keys]
    exact (State.reserve_alerts s item mods qty).trans ⟨rfl, rfl, rfl⟩
  have hfree : ((s.reserve item mods qty).setTab tab (s.withLine t l)).freeLines = s.freeLines - 1 := by
    refine State.freeLines_append (x := s.withLine t l) hrise ht ?_ (by simp [State.withLine])
    rw [State.setTab, (State.reserve_frame s item mods qty).tabs (by decide)]
  refine SameAlerts.entered ?_
  rw [State.enterAll_append, State.lineAdded, State.poolCheck, hfree]
  split
  · exact hres.enter _ _
  · exact hres

end

/-- Settles O25: past the checks before the pool's, the free records choose between FULL and the line appended. -/
theorem addLineAppendsLine : Obligations.AddLineAppendsLine := by
  intro src tab rev item qty mods t it s ha ht hst hr hi hk hm hallow hq hix hgoods
  have hpass : PassesToPool s tab rev item qty mods t it := ⟨ht, hst, hr, hi, hk, hm, hallow, hq, hix, hgoods⟩
  refine ⟨fun hf => ?_, fun hf hstock => ?_⟩
  · exact ⟨_, answers_of_owner rfl ha (hpass.addLine_full hf), State.enterAlert_frame .., State.enterAlert_entered rfl rfl rfl _ _⟩
  · intro l totals
    have hline : s.newLine t.nextIndex item qty mods = l := State.newLine_eq s _ _ _ hi
    have hadd := hpass.addLine_appends hf (State.shortItem_none hstock)
    rw [hline] at hadd
    have hframe := addLine_frame tab rev item qty mods s
    rw [hadd] at hframe
    obtain ⟨-, hsame, hother⟩ := State.setTab_effect ht (s.withLine t l)
    refine ⟨_, answers_of_owner rfl ha hadd, hframe, ?_, fun n hn => ?_, fun x i hx => ?_, fun hrise => ?_, fun d => ?_⟩
    · rw [State.lineAdded_tab, hsame, State.withLine, hr]
    · rw [State.lineAdded_tab, hother n hn]
    · rw [State.lineAdded_item, State.reserve_item_some item mods qty hx]
    · exact State.lineAdded_alerts s tab item qty mods l hrise ht
    · exact State.lineAdded_drop s tab item qty mods l d

end Sys2Proof.Machine

/-! PROOFS. Plans and holds: SPLIT and ASSIGN (O40), UNSPLIT (O41), TENDER-BEGIN (O44), TENDER-CANCEL (O46) and the expiry of a hold
(O16). -/

namespace Sys2Proof.Machine

/-! ### SPLIT and ASSIGN (R127 to R131) -/

/-- The tab with its plan made anew over lines with their sets (R128, R129, R131). -/
def State.planOver (s : State) (t : Tab) (n : Nat) (lines : List Line) : Tab :=
  { t with
    state := .settling
    settlement := some (splitShares s.taxRate t.serviceRate (totalsOf s.taxRate t.serviceRate lines) n lines)
    lines := lines
    revision := (t.revision + 1) % 65536 }

/-- The answer of SPLIT and ASSIGN is read off the plan over the lines (R130). -/
theorem planAnswer_planOver (s : State) (t : Tab) (n : Nat) (lines : List Line) :
    planAnswer (s.planOver t n lines) = okWith ([u16 ((t.revision + 1) % 65536), u8 n, u32 t.totals.total] ++
      (splitShares s.taxRate t.serviceRate (totalsOf s.taxRate t.serviceRate lines) n lines).map fun x => u32 x.total) := by
  simp [planAnswer, State.planOver, Tab.shareCount]

/-- The lines with the sets a SPLIT gives them (R128). -/
theorem Tab.withSets_planned (s : State) (t : Tab) (n : Nat) (entries : List SplitEntry) :
    s.planned (t.withSets n entries) n = s.planOver t n (t.lines.map fun l => if l.voided = true then l else
      { l with shares := match entries.find? fun e => e.index == l.index with | some e => e.set | none => allShares n }) := rfl

theorem Tab.assigned_planned (s : State) (t : Tab) (n ix : Nat) (set : BitVec 12) :
    s.planned (t.editLines (· == ix) fun l => { l with shares := set }) n =
      s.planOver t n (t.lines.map fun l => if l.index = ix then { l with shares := set } else l) := by
  simp [State.planned, State.planOver, Tab.editLines, State.splitTab, Tab.edited, nextRevision]

section
variable {tab rev : Nat} {t : Tab} {s : State} (ht : s.tab tab = some t) (hr : t.revision = rev)
include ht hr

/-- A SPLIT that passes its checks stores the plan over the lines with their sets. -/
theorem splitRequest_plans {n : Nat} {entries : List SplitEntry}
    (hst : (t.state = .opened ∧ 0 < s.freeSettlements) ∨ (t.state = .settling ∧ ∀ x ∈ t.settlement.getD [], x.pay = .unpaid))
    (hn : 1 ≤ n ∧ n ≤ 12) (hl : ∃ l ∈ t.lines, l.voided = false)
    (he : ∀ e ∈ entries, (∃ l ∈ t.lines, l.index = e.index ∧ l.voided = false) ∧ SetFits n e.set)
    (hnd : (entries.map SplitEntry.index).Nodup) :
    splitRequest tab rev n entries s =
      (s.setTab tab (s.planned (t.withSets n entries) n), planAnswer (s.planned (t.withSets n entries) n)) := by
  have htakes : t.TakesEdit .split := hst.imp And.left id
  have hchecks := State.editChecks_ok ht ((gateOf_spec .split (by decide) t).1 htakes) hr
  have hcount : ¬(n < 1 ∨ 12 < n) := by omega
  have hactive : activeLines t.lines ≠ [] := fun h => by
    obtain ⟨l, hmem, hv⟩ := hl
    rw [(activeLines_eq_nil_iff _).mp h l hmem] at hv
    cases hv
  have hroom : ¬(t.state = .opened ∧ s.freeSettlements = 0) := by
    rintro ⟨ho, h0⟩
    rcases hst with ⟨-, hpos⟩ | ⟨hs, -⟩
    · omega
    · rw [ho] at hs
      cases hs
  have hentries := badEntry_none t n entries 1 [] he hnd (by simp)
  have hgate : gateOf .split = planGate true := rfl
  rw [hgate] at hchecks
  simp only [splitRequest, hchecks, splitOf, if_neg hcount, if_neg hactive, if_neg hroom, hentries]

/-- An ASSIGN that passes its checks stores the plan over the lines with the one set replaced. -/
theorem assignRequest_plans {ix : Nat} {set : BitVec 12} (hst : t.state = .settling)
    (hu : ∀ x ∈ t.settlement.getD [], x.pay = .unpaid) (hl : ∃ l ∈ t.lines, l.index = ix ∧ l.voided = false)
    (hset : SetFits t.shareCount set) :
    let t1 := s.planned (t.editLines (· == ix) fun l => { l with shares := set }) t.shareCount
    assignRequest tab rev ix set s = (s.setTab tab t1, planAnswer t1) := by
  have hchecks := State.editChecks_ok ht ((gateOf_spec .assign (by decide) t).1 ⟨hst, hu⟩) hr
  have hgate : gateOf .assign = planGate false := rfl
  rw [hgate] at hchecks
  simp only [assignRequest, hchecks, Tab.activeLine_found t ix hl, goodSet_of_fits _ _ hset, Bool.true_eq_false,
    Bool.false_eq_true, if_false]

end

/-- Settles O40: past their checks both requests store the plan over the lines as they set them. -/
theorem splitAndAssignMakePlan : Obligations.SplitAndAssignMakePlan := by
  intro src tab rev t s ht hr
  refine ⟨fun n entries ha hst hn hl he hnd => ?_, fun ix set ha hst hu hl hset => ?_⟩
  · intro lines shares
    have hplan := splitRequest_plans ht hr hst hn hl he hnd
    rw [Tab.withSets_planned, planAnswer_planOver] at hplan
    subst hr
    exact ⟨_, answers_of_owner rfl ha hplan, (State.setTab_effect ht _).1, splitShares_length .., splitShares_unpaid _ _ _ _ _,
      (State.setTab_effect ht _).2⟩
  · intro lines shares
    have hplan := assignRequest_plans ht hr hst hu hl hset
    dsimp only at hplan
    rw [Tab.assigned_planned, planAnswer_planOver] at hplan
    subst hr
    exact ⟨_, answers_of_owner rfl ha hplan, (State.setTab_effect ht _).1, splitShares_length .., splitShares_unpaid _ _ _ _ _,
      (State.setTab_effect ht _).2⟩

/-! ### UNSPLIT (R125, R132) -/

theorem unsplitRequest_opens {tab rev : Nat} {t : Tab} {s : State} (ht : s.tab tab = some t) (hr : t.revision = rev)
    (hst : t.state = .settling) (hu : ∀ x ∈ t.settlement.getD [], x.pay = .unpaid) :
    unsplitRequest tab rev s = (s.setTab tab t.unplanned, okWith [u16 ((rev + 1) % 65536), u32 t.totals.total]) := by
  have hchecks := State.editChecks_ok ht ((gateOf_spec .unsplit (by decide) t).1 ⟨hst, hu⟩) hr
  have hgate : gateOf .unsplit = planGate false := rfl
  rw [hgate] at hchecks
  subst hr
  simp only [unsplitRequest, hchecks]
  rfl

/-- Settles O41: the gate of R125 tells the two cases apart. -/
theorem unsplitReturnsToOpen : Obligations.UnsplitReturnsToOpen := by
  intro src tab rev t shares s ha ht hr hst hsh
  refine ⟨fun hu => ?_, fun ⟨x, hx, hp⟩ => ?_⟩
  · have hall : ∀ x ∈ t.settlement.getD [], x.pay = .unpaid := by
      rw [hsh]
      exact hu
    have hopen := unsplitRequest_opens ht hr hst hall
    subst hr
    exact ⟨_, answers_of_owner rfl ha hopen, State.setTab_effect ht _⟩
  · have hnot : ¬t.TakesEdit .unsplit := fun h => hp (h.2 x (by rw [hsh]; exact hx))
    have hans := editChecks_answer (i := .unsplit src tab rev) rfl rfl ha
      (State.editChecks_gate rev ht ((gateOf_spec .unsplit (by decide) t).2 hnot))
    simpa [Tab.stateRefusal, hst, hsh, TabState.code] using hans

/-! ### Holds (R147, R148, R153) -/

section
variable {src tab j : Nat} {t : Tab} {x : Share} {s : State} (ht : s.tab tab = some t) (hst : t.state = .settling)
  (hx : t.share j = some x)
include ht hst hx

/-- TENDER-BEGIN of a share of a tab in payment is what the share's state and the till's hold make of it. -/
theorem tenderBegin_share :
    tenderBegin src tab j s = match x.pay with
    | .unpaid => match s.hold src with
      | some h => (s, refuse .badState [u16 h.tab, u8 h.share])
      | none => ((s.holdShare tab j src t x).setHold src (some ⟨tab, j⟩),
          ⟨.ok, 0, [u32 x.total, u32 ((s.clock + s.holdTime) % 4294967296)]⟩)
    | .held till _ => if till = src then
          (s.holdShare tab j src t x, ⟨.ok, 1, [u32 x.total, u32 ((s.clock + s.holdTime) % 4294967296)]⟩)
        else (s, refuse .heldElsewhere [u8 till])
    | .paid kind _ _ _ _ till => (s, refuse .badState [u8 till, u8 kind.code]) := by
  simp only [tenderBegin, State.tenderChecks_pass ht hst hx]
  rfl

/-- TENDER-CANCEL of a share of a tab in payment is what the share's state makes of it. -/
theorem tenderCancel_share :
    tenderCancel src tab j s = match x.pay with
    | .unpaid => (s, refuse .badState [])
    | .held till _ => if till = src then (s.releaseShare tab j src t x, okWith []) else (s, refuse .heldElsewhere [u8 till])
    | .paid _ _ _ _ _ till => (s, refuse .badState [u8 till]) := by
  simp only [tenderCancel, State.tenderChecks_pass ht hst hx] <;> rfl

end

/-- Settles O44: TENDER-BEGIN by the state of the share. -/
theorem tenderBeginHoldsShare : Obligations.TenderBeginHoldsShare := by
  intro src tab j t x s ha hsrc ht hst hx expiry
  have hbegin := tenderBegin_share (src := src) ht hst hx
  refine ⟨fun hp hh => ?_, fun h hp hh => ?_, fun e hp => ?_, fun till e hp hne => ?_, fun kind a b c d till hp => ?_⟩
  · simp only [hp, hh] at hbegin
    obtain ⟨hframe, hsame, hother⟩ := State.setTab_effect ht (t.setShare j { x with pay := .held src expiry })
    exact ⟨_, answers_of_owner rfl ha hbegin, hframe.step (State.setHold_frame ..) (by decide) (by decide), hsame, hother,
      State.hold_setHold_same .., fun m hm hne => State.hold_setHold_other _ src m _ hsrc hm hne⟩
  · simp only [hp, hh] at hbegin
    exact answers_of_owner rfl ha hbegin
  · simp only [hp, if_pos] at hbegin
    exact ⟨_, answers_of_owner rfl ha hbegin, State.setTab_effect ht _⟩
  · simp only [hp, if_neg hne] at hbegin
    exact answers_of_owner rfl ha hbegin
  · simp only [hp] at hbegin
    exact answers_of_owner rfl ha hbegin

/-- A share released: its tab's record, the till's hold, and nothing else. -/
theorem State.releaseShare_effect {s : State} {tab : Nat} {t : Tab} (ht : s.tab tab = some t) (j : Nat) {till : Nat}
    (htill : till ≤ 32) (x : Share) :
    SameBut [.tabs, .holds] s (s.releaseShare tab j till t x) ∧
      (s.releaseShare tab j till t x).tab tab = some (t.setShare j { x with pay := .unpaid }) ∧
      (∀ m, m ≠ tab → (s.releaseShare tab j till t x).tab m = s.tab m) ∧ (s.releaseShare tab j till t x).hold till = none ∧
      ∀ m, m ≤ 32 → m ≠ till → (s.releaseShare tab j till t x).hold m = s.hold m := by
  obtain ⟨-, hsame, hother⟩ := State.setTab_effect ht (t.setShare j { x with pay := .unpaid })
  exact ⟨releaseShare_frame s tab j till t x, hsame, hother, State.hold_setHold_same ..,
    fun m hm hne => State.hold_setHold_other _ till m _ htill hm hne⟩

/-- Settles O46: TENDER-CANCEL by the state of the share. -/
theorem tenderCancelReleasesShare : Obligations.TenderCancelReleasesShare := by
  intro src tab j t x s ha hsrc ht hst hx
  have hcancel := tenderCancel_share (src := src) ht hst hx
  refine ⟨fun e hp => ?_, fun till e hp hne => ?_, fun hp => ?_, fun k a b c d till hp => ?_⟩
  · simp only [hp, if_pos] at hcancel
    exact ⟨_, answers_of_owner rfl ha hcancel, State.releaseShare_effect ht j hsrc x⟩
  · simp only [hp, if_neg hne] at hcancel
    exact answers_of_owner rfl ha hcancel
  · simp only [hp] at hcancel
    exact answers_of_owner rfl ha hcancel
  · simp only [hp] at hcancel
    exact answers_of_owner rfl ha hcancel

theorem State.expireHold_expires {s : State} {n j till : Nat} {t : Tab} {x : Share} (ht : s.tab n = some t)
    (hx : t.share j = some x) (hp : x.pay = .held till s.clock) :
    s.expireHold n j = (s.releaseShare n j till t x).notify till (.holdLapsed n j) := by
  simp [State.expireHold, (State.tab_some ht).2, hx, hp]

/-- A notice placed for a number that stands for a till reaches that drop and no other. -/
theorem State.notify_noticeFor (s : State) (d : Nat) (n : Notice) : NoticeFor d n s (s.notify d n) := by
  refine ⟨fun h => ?_, fun h => ?_, fun e he => ?_⟩
  · rw [State.notify_drop, if_pos ⟨rfl, h⟩]
  · rw [State.notify_drop, if_neg (by simp [h])]
  · rw [State.notify_drop, if_neg (by simp [he])]

/-- A change that leaves the lanes and the drops alone leaves alone where a notice goes. -/
theorem NoticeFor.of_same {s t u : State} {d : Nat} {n : Notice} (h : NoticeFor d n t u) (hl : t.lanes = s.lanes)
    (hd : t.drops = s.drops) : NoticeFor d n s u := by
  obtain ⟨htill, hnone, hother⟩ := h
  rw [State.isTill_of hl, State.drop_of hd] at htill hnone
  exact ⟨htill, hnone, fun e he => (hother e he).trans (State.drop_of hd e)⟩

/-- Settles O16: the expiry is the release of the share and the notice for its till. -/
theorem holdExpiryFreesShare : Obligations.HoldExpiryFreesShare := by
  intro n j till t x s hm ht hx hp htill
  obtain ⟨hframe, hsame, hother, hhold, hholds⟩ := State.releaseShare_effect ht j htill x
  have hnotify := State.notify_frame (s.releaseShare n j till t x) till (.holdLapsed n j)
  refine ⟨_, (if_pos hm).trans (congrArg _ (State.expireHold_expires ht hx hp)), hframe.step hnotify (by decide) (by decide), ?_,
    fun m hne => ?_, ?_, fun m hm hne => ?_, ?_⟩
  · rw [State.tab_of (hnotify.tabs (by decide)), hsame]
  · rw [State.tab_of (hnotify.tabs (by decide)), hother m hne]
  · rw [State.hold_of (hnotify.holds (by decide)), hhold]
  · rw [State.hold_of (hnotify.holds (by decide)), hholds m hm hne]
  · exact (State.notify_noticeFor _ till _).of_same (hframe.lanes (by decide)) (hframe.drops (by decide))

end Sys2Proof.Machine

/-! PROOFS. Payment: TENDER-COMMIT (O45) and WRITE-OFF (O48). -/

namespace Sys2Proof.Machine

/-! ### Judging a tender (R150, R151) -/

theorem tenderKindOf_code {kind : TenderKind} (h : kind ≠ .writeOff) : tenderKindOf kind.code = some kind := by
  cases kind with
  | writeOff => exact absurd rfl h
  | cash => rfl
  | card => rfl
  | voucher => rfl

/-- The tender is one its kind accepts for what is due (R151). -/
def tenderFits (kind : TenderKind) (due tendered : Nat) : Prop := if kind = .card then tendered = due else due ≤ tendered

/-- The change of an accepted tender. -/
def changeOf (kind : TenderKind) (due tendered : Nat) : Nat := if kind = .cash then tendered - due else 0

/-- The voucher excess of an accepted tender. -/
def excessOf (kind : TenderKind) (due tendered : Nat) : Nat := if kind = .voucher then tendered - due else 0

theorem judgeTender_fits {kind : TenderKind} {due tendered : Nat} (hk : kind ≠ .writeOff) (h : tenderFits kind due tendered) :
    judgeTender kind due tendered = some (changeOf kind due tendered, excessOf kind due tendered) := by
  cases kind with
  | writeOff => exact absurd rfl hk
  | cash => exact if_pos h
  | card => exact if_pos h
  | voucher => exact if_pos h

theorem judgeTender_unfit {kind : TenderKind} {due tendered : Nat} (h : ¬tenderFits kind due tendered) :
    judgeTender kind due tendered = none := by
  cases kind with
  | writeOff => rfl
  | cash => exact if_neg h
  | card => exact if_neg h
  | voucher => exact if_neg h

section
variable {src tab j tendered tip : Nat} {kind : TenderKind} {t : Tab} {x : Share} {s : State} (ht : s.tab tab = some t)
  (hst : t.state = .settling) (hx : t.share j = some x) (hk : kind ≠ .writeOff) (htip : tip ≤ 99999)
  (htend : tendered ≤ 99999999)
include ht hst hx hk htip htend

/-- A TENDER-COMMIT with fields in range is what the share's state and the tender make of it. -/
theorem tenderCommit_share :
    tenderCommit src tab j kind.code tendered tip s = match x.pay with
    | .unpaid => (s, refuse .lapsed [])
    | .paid pk ptend _ pchange pexcess ptill =>
        (s, refuse .badState [u8 ptill, u8 pk.code, u32 ptend, u32 pchange, u32 pexcess])
    | .held till _ =>
      if till ≠ src then (s, refuse .heldElsewhere [u8 till])
      else match judgeTender kind (x.total + tip) tendered with
      | none => (s, refuse .amount [u32 (x.total + tip)])
      | some (change, excess) => acceptTender src tab j kind tendered tip change excess t x s := by
  have hrange : ¬(99999 < tip ∨ 99999999 < tendered) := by omega
  simp only [tenderCommit, State.tenderChecks_pass ht hst hx, tenderKindOf_code hk, if_neg hrange] <;> rfl

theorem tenderCommit_lapsed (hp : x.pay = .unpaid) : tenderCommit src tab j kind.code tendered tip s = (s, refuse .lapsed []) := by
  rw [tenderCommit_share ht hst hx hk htip htend, hp]

theorem tenderCommit_amount {e : Nat} (hp : x.pay = .held src e) (hf : ¬tenderFits kind (x.total + tip) tendered) :
    tenderCommit src tab j kind.code tendered tip s = (s, refuse .amount [u32 (x.total + tip)]) := by
  rw [tenderCommit_share ht hst hx hk htip htend, hp, judgeTender_unfit hf]
  simp

theorem tenderCommit_accepts {e : Nat} (hp : x.pay = .held src e) (hf : tenderFits kind (x.total + tip) tendered) :
    tenderCommit src tab j kind.code tendered tip s =
      acceptTender src tab j kind tendered tip (changeOf kind (x.total + tip) tendered) (excessOf kind (x.total + tip) tendered)
        t x s := by
  rw [tenderCommit_share ht hst hx hk htip htend, hp, judgeTender_fits hk hf]
  simp

end

/-! ### Paid figures (R155) -/

/-- The share counts towards the paid figures: PAID with CASH, CARD or VOUCHER. -/
def Share.counts (y : Share) : Bool :=
  match y.pay with
  | .paid k _ _ _ _ _ => k != .writeOff
  | _ => false

/-- The tip of a PAID share. -/
def Share.tip (y : Share) : Nat :=
  match y.pay with
  | .paid _ _ p _ _ _ => p
  | _ => 0

theorem Share.figures_eq (y : Share) : y.figures = if y.counts = true then (y.total, y.tip) else (0, 0) := by
  rcases y with ⟨g, ts, sv, tt, p⟩
  cases p with
  | unpaid => rfl
  | held till e => rfl
  | paid k a b c d till => cases k <;> rfl

theorem figuresOf_eq (shares : List Share) :
    figuresOf shares = (((shares.filter Share.counts).map Share.total).sum, ((shares.filter Share.counts).map Share.tip).sum) := by
  induction shares with
  | nil => rfl
  | cons y rest ih =>
    simp only [figuresOf, Prod.mk.injEq] at ih
    simp only [figuresOf, List.map_cons, List.sum_cons, ih.1, ih.2, Share.figures_eq y, List.filter_cons]
    split
    · rfl
    · simp

/-! ### The drawer credited (R157) -/

/-- Of a drawer's ten additions only six can pass the cap: the others add nothing to a field within it. -/
theorem saturates_creditOf {d : Drawer} {kind : TenderKind} (hk : kind ≠ .writeOff) (hd : ∀ v ∈ d.amounts, v ≤ 999999999)
    (due tip change excess : Nat) :
    saturates d (creditOf kind due tip change excess) =
      [(if kind = .cash then (d.cashCount, d.cashAmount) else if kind = .card then (d.cardCount, d.cardAmount)
          else (d.voucherCount, d.voucherAmount)).1 + 1,
        (if kind = .cash then (d.cashCount, d.cashAmount) else if kind = .card then (d.cardCount, d.cardAmount)
          else (d.voucherCount, d.voucherAmount)).2 + due,
        d.excess + excess, d.tips + tip, d.change + change, d.sharesPaid + 1].any fun v => decide (999999999 < v) := by
  simp only [Drawer.amounts, List.mem_cons, List.not_mem_nil, or_false, forall_eq_or_imp, forall_eq] at hd
  obtain ⟨h1, h2, h3, h4, h5, h6, -⟩ := hd
  have cap : Config.moneyCap = 999999999 := rfl
  rw [Bool.eq_iff_iff]
  cases kind with
  | writeOff => exact absurd rfl hk
  | cash =>
    simp [saturates, creditOf, Drawer.amounts, cap]
    omega
  | card =>
    simp [saturates, creditOf, Drawer.amounts, cap]
    omega
  | voucher =>
    simp [saturates, creditOf, Drawer.amounts, cap]
    omega

/-- Two states with the same alert table leave the same table once the same entries are handed to it. -/
theorem SameAlerts.entered_eq {s t : State} (h : SameAlerts s t) (keys : List (AlertKind × Nat)) : t.entered keys = s.entered keys :=
  (h.all keys).entered

theorem State.credit_drawer (s : State) (till : Nat) (c : Drawer) : (s.credit till c).drawer till = (s.drawer till).credited c := by
  have hf : SameBut [.alerts, .alertsFull] (s.setDrawer till ((s.drawer till).credited c)) (s.credit till c) :=
    SameBut.ite (fun _ => State.enterAlert_frame ..) fun _ => SameBut.refl ..
  rw [State.drawer_of (hf.drawers (by decide)), State.drawer_setDrawer_same]

theorem State.credit_drawer_other (s : State) {till m : Nat} (c : Drawer) (ht : till ≤ 32) (hm : m ≤ 32) (h : m ≠ till) :
    (s.credit till c).drawer m = s.drawer m := by
  have hf : SameBut [.alerts, .alertsFull] (s.setDrawer till ((s.drawer till).credited c)) (s.credit till c) :=
    SameBut.ite (fun _ => State.enterAlert_frame ..) fun _ => SameBut.refl ..
  rw [State.drawer_of (hf.drawers (by decide)), State.drawer_setDrawer_other s till m _ ht hm h]

theorem State.credit_alerts (s : State) (till : Nat) (c : Drawer) :
    ((s.credit till c).alerts, (s.credit till c).alertsFull) =
      s.entered (if saturates (s.drawer till) c = true then [(.drawerSaturated, till)] else []) := by
  unfold State.credit
  dsimp only
  split
  · exact State.enterAlert_entered (s := s) (t := s.setDrawer till _) rfl rfl rfl _ _
  · rfl

/-! ### An accepted tender (R151, R154) -/

/-- The share paid, the hold emptied and the drawer credited, before the tab may be settled. -/
def State.paidTo (s : State) (src tab : Nat) (t1 : Tab) (c : Drawer) : State := ((s.setTab tab t1).setHold src none).credit src c

/-- The tab's shares that are not PAID. -/
def Tab.unpaidCount (t : Tab) : Nat := (t.settlement.getD []).countP fun y => !y.pay.isPaid

/-- The tab stored SETTLED when no share is left to pay. -/
def State.settledIfPaid (s : State) (tab : Nat) (t1 : Tab) : State :=
  if t1.unpaidCount = 0 then s.setTab tab (t1.settled t1.writtenOff) else s

theorem State.settledIfPaid_part {s : State} {t1 : Tab} (tab : Nat) (h : t1.unpaidCount ≠ 0) : s.settledIfPaid tab t1 = s := if_neg h

theorem State.settledIfPaid_last {s : State} {t1 : Tab} (tab : Nat) (h : t1.unpaidCount = 0) :
    s.settledIfPaid tab t1 = s.setTab tab (t1.settled t1.writtenOff) := if_pos h

theorem State.settledIfPaid_frame (s : State) (tab : Nat) (t1 : Tab) : SameBut [.tabs] s (s.settledIfPaid tab t1) :=
  SameBut.ite (fun _ => State.setTab_frame ..) fun _ => SameBut.refl ..

section
variable {src tab j tendered tip change excess : Nat} {kind : TenderKind} {t : Tab} {x : Share} {s : State}

/-- The record of the share once it is paid. -/
def Tab.paying (t : Tab) (j : Nat) (x : Share) (kind : TenderKind) (tendered tip change excess src : Nat) : Tab :=
  t.setShare j { x with pay := .paid kind tendered tip change excess src }

theorem Tab.unpaidCount_eq (t : Tab) : countShares (t.settlement.getD []) (fun p => !p.isPaid) = t.unpaidCount :=
  (List.countP_eq_length_filter ..).symm

/-- An accepted tender by the shares it leaves to pay. -/
theorem acceptTender_eq :
    let t1 := t.paying j x kind tendered tip change excess src
    let s1 := s.paidTo src tab t1 (creditOf kind (x.total + tip) tip change excess)
    acceptTender src tab j kind tendered tip change excess t x s =
      (if t1.unpaidCount = 0 then s1.settle tab t1 else s1,
        okWith [u8 j, u32 (x.total + tip), u32 change, u32 excess,
          u8 (if t1.unpaidCount = 0 then TabState.settled else TabState.settling).code, u8 t1.unpaidCount]) := by
  dsimp only
  rw [← Tab.unpaidCount_eq]
  rfl

theorem acceptTender_part (h : (t.paying j x kind tendered tip change excess src).unpaidCount ≠ 0) :
    let t1 := t.paying j x kind tendered tip change excess src
    acceptTender src tab j kind tendered tip change excess t x s =
      ((s.paidTo src tab t1 (creditOf kind (x.total + tip) tip change excess)).settledIfPaid tab t1,
        okWith [u8 j, u32 (x.total + tip), u32 change, u32 excess, u8 1, u8 t1.unpaidCount]) := by
  dsimp only
  rw [acceptTender_eq, State.settledIfPaid]
  simp only [if_neg h]
  rfl

theorem acceptTender_last (h : (t.paying j x kind tendered tip change excess src).unpaidCount = 0) :
    let t1 := t.paying j x kind tendered tip change excess src
    let u := (s.paidTo src tab t1 (creditOf kind (x.total + tip) tip change excess)).settledIfPaid tab t1
    acceptTender src tab j kind tendered tip change excess t x s =
      ((u.autoSend tab (t1.settled t1.writtenOff)).retireCheck tab,
        okWith [u8 j, u32 (x.total + tip), u32 change, u32 excess, u8 2, u8 0]) := by
  dsimp only
  rw [acceptTender_eq, State.settledIfPaid]
  simp only [h, if_pos]
  rfl

end

theorem State.autoSend_running {s : State} {n : Nat} {t : Tab} (h : t.kind = .running) : s.autoSend n t = s := if_pos h

theorem State.autoSend_payFirst {s : State} {n : Nat} {t : Tab} (h : t.kind = .payFirst) :
    s.autoSend n t = match s.sendTab n t false false with
      | .done w _ _ => w
      | .full _ _ => s.enterAlert .sendDeferred n := by
  rw [State.autoSend, if_neg (by rw [h]; decide)]
  cases s.sendTab n t false false <;> rfl

/-- Settles O45: the share's state and the tender choose between the refusals and the payment; the payment is read at the tab, the
hold, the drawer and the alert table, and the shares left choose what follows it. -/
theorem tenderCommitPaysShare : Obligations.TenderCommitPaysShare := by
  intro src tab j tendered tip kind t x s ha hsrc ht hst hx hk htip htend i due fits change excess add old counts saturating
  refine ⟨fun hp => ?_, fun e hp hf => ?_, fun e hp hf => ?_⟩
  · exact answers_of_owner rfl ha (tenderCommit_lapsed ht hst hx hk htip htend hp)
  · exact answers_of_owner rfl ha (tenderCommit_amount ht hst hx hk htip htend hp hf)
  intro paid left figures settled
  have hcommit := tenderCommit_accepts ht hst hx hk htip htend hp hf
  have hsettled : paid.settled paid.writtenOff = settled := by
    rw [Tab.settled, figuresOf_eq]
    rfl
  have hlast (hl : left = 0) : tenderCommit src tab j kind.code tendered tip s =
      ((((s.paidTo src tab paid (creditOf kind due tip change excess)).settledIfPaid tab paid).autoSend tab settled).retireCheck tab,
        okWith [u8 j, u32 due, u32 change, u32 excess, u8 2, u8 0]) := by
    rw [← hsettled]
    exact hcommit.trans (acceptTender_last hl)
  have hpaidTo : SameBut [.tabs, .holds, .drawers, .alerts, .alertsFull] s
      (s.paidTo src tab paid (creditOf kind due tip change excess)) :=
    ((State.setTab_frame s tab paid).step (rs := [.tabs, .holds]) (State.setHold_frame _ src none) (by decide) (by decide)).step
      (credit_frame ..) (by decide) (by decide)
  have hfin := State.settledIfPaid_frame (s.paidTo src tab paid (creditOf kind due tip change excess)) tab paid
  have hcredit := credit_frame ((s.setTab tab paid).setHold src none) src (creditOf kind due tip change excess)
  obtain ⟨hframe, hsame, hother⟩ := State.setTab_effect ht paid
  refine ⟨(s.paidTo src tab paid (creditOf kind due tip change excess)).settledIfPaid tab paid,
    hpaidTo.step hfin (by decide) (by decide), ?_, fun m hm hne => ⟨?_, ?_⟩, ?_, fun hmoney => ?_, fun m hne => ?_, fun hl => ⟨?_, ?_⟩,
    fun hl => ⟨?_, fun hrun => ?_, fun hfirst => ?_⟩⟩
  · rw [State.hold_of (hfin.holds (by decide)), State.paidTo, State.hold_of (hcredit.holds (by decide)), State.hold_setHold_same]
  · rw [State.hold_of (hfin.holds (by decide)), State.paidTo, State.hold_of (hcredit.holds (by decide)),
      State.hold_setHold_other _ src m _ hsrc hm hne]
    rfl
  · rw [State.drawer_of (hfin.drawers (by decide)), State.paidTo, State.credit_drawer_other _ _ hsrc hm hne]
    rfl
  · rw [State.drawer_of (hfin.drawers (by decide)), State.paidTo, State.credit_drawer]
    exact ⟨rfl, rfl, rfl, rfl, rfl, rfl, rfl, rfl, rfl, rfl⟩
  · have hsat : saturates old (creditOf kind due tip change excess) = saturating :=
      saturates_creditOf hk (hmoney.1 src) due tip change excess
    have hal := State.credit_alerts ((s.setTab tab paid).setHold src none) src (creditOf kind due tip change excess)
    rw [hfin.alerts (by decide), hfin.alertsFull (by decide), State.drawer_of (hfin.drawers (by decide)), State.paidTo,
      State.credit_drawer, hal, ← hsat]
    exact ⟨rfl, SameAlerts.entered_eq (s := s) (t := (s.setTab tab paid).setHold src none) ⟨rfl, rfl, rfl⟩ _⟩
  · have htabs : (s.paidTo src tab paid (creditOf kind due tip change excess)).tab m = s.tab m :=
      (State.tab_of (hcredit.tabs (by decide)) m).trans (hother m hne)
    rw [State.settledIfPaid]
    split
    · rw [State.tab_setTab_other _ _ _ _ hne, htabs]
    · exact htabs
  · rw [State.settledIfPaid_part tab hl]
    exact (State.tab_of (hcredit.tabs (by decide)) tab).trans hsame
  · exact answers_of_owner rfl ha (hcommit.trans (acceptTender_part hl))
  · rw [State.settledIfPaid_last tab hl, hsettled]
    exact State.tab_setTab_same _ _ _ (State.tab_some ht).1
  · exact answers_of_owner rfl ha ((hlast hl).trans (congrArg (fun v => (State.retireCheck v tab, _))
      (State.autoSend_running (t := settled) hrun)))
  · exact answers_of_owner rfl ha ((hlast hl).trans (congrArg (fun v => (State.retireCheck v tab, _))
      (State.autoSend_payFirst (t := settled) hfirst)))

/-! ### WRITE-OFF (R99, R159 to R161) -/

/-- A write-off that passes its checks: an OPEN tab with an ACTIVE line, or a SETTLING one with no share HELD (R159). -/
def Tab.TakesWriteOff (t : Tab) : Prop :=
  (t.state = .opened ∧ t.settlement = none ∧ ∃ l ∈ t.lines, l.voided = false) ∨
    (t.state = .settling ∧ ∀ x ∈ t.settlement.getD [], x.pay.isHeld = false)

/-- The till that holds a share. -/
def Share.heldBy (x : Share) : Option Nat :=
  match x.pay with
  | .held till _ => some till
  | _ => none

theorem Share.heldBy_none {x : Share} (h : x.pay.isHeld = false) : x.heldBy = none := by
  rcases x with ⟨g, ts, sv, tt, p⟩
  cases p with
  | held till e => cases h
  | unpaid => rfl
  | paid k a b c d till => rfl

/-- What a write-off of a tab in payment is refused with: the tills that hold a share, the first of them named (R159). -/
def heldRefusal (tills : List Nat) : Option Reply :=
  match tills with
  | [] => none
  | till :: rest => some (refuse .heldElsewhere [u8 (rest.length + 1), u8 till])

theorem writeOffRefusal_settling {t : Tab} (h : t.state = .settling) :
    writeOffRefusal t = heldRefusal ((t.settlement.getD []).filterMap Share.heldBy) := by
  rw [writeOffRefusal, h]
  rfl

theorem writeOffRefusal_none {t : Tab} (h : t.TakesWriteOff) : writeOffRefusal t = none := by
  rcases h with ⟨hst, -, l, hl, hv⟩ | ⟨hst, hfree⟩
  · have hactive : activeLines t.lines ≠ [] := fun he => by
      rw [(activeLines_eq_nil_iff _).mp he l hl] at hv
      cases hv
    simp [writeOffRefusal, hst, hactive]
  · have hnone := List.filterMap_eq_nil_iff.mpr fun x hx => Share.heldBy_none (hfree x hx)
    rw [writeOffRefusal_settling hst, hnone]
    rfl

/-- The amount and the count of shares a write-off writes off (R160, R161). -/
theorem writeOffAmount_eq {t : Tab} (h : t.TakesWriteOff) :
    writeOffAmount t =
      (if t.state = .opened then t.totals.total
        else (((t.settlement.getD []).filter fun x => x.pay == .unpaid).map Share.total).sum,
      if t.state = .opened then 1 else ((t.settlement.getD []).filter fun x => x.pay == .unpaid).length) := by
  rcases h with ⟨hst, -, -⟩ | ⟨hst, -⟩
  · simp [writeOffAmount, hst]
  · simp [writeOffAmount, hst]

/-- The tab as a write-off leaves it (R161). -/
def Tab.writtenOffTab (t : Tab) : Tab := { t with settlement := t.settlement.map (List.map Share.writtenOff) }.settled true

theorem Tab.writtenOffTab_eq (t : Tab) :
    t.writtenOffTab =
      { t with
        state := .settled, settlement := none, writtenOff := true,
        paidFigures := some ((((t.settlement.getD []).filter Share.counts).map Share.total).sum,
          (((t.settlement.getD []).filter Share.counts).map Share.tip).sum) } := by
  have hfigures : figuresOf ((t.settlement.map (List.map Share.writtenOff)).getD []) = figuresOf (t.settlement.getD []) := by
    cases t.settlement with
    | none => rfl
    | some shares => exact figuresOf_writtenOff shares
  rw [Tab.writtenOffTab, Tab.settled, hfigures, figuresOf_eq]

/-- The state of a write-off before its kills: the total raised, the UNSENT lines' units given back, the tab stored. -/
def State.writingOff (s : State) (n : Nat) (t : Tab) : State :=
  ((unsentLines t).foldl State.restore { s with writeOffTotal := addCapped s.writeOffTotal (writeOffAmount t).1 }).setTab n
    t.writtenOffTab

theorem State.writeOffTab_eq (s : State) (n : Nat) (t : Tab) :
    s.writeOffTab n t = (s.unstarted n).foldl State.killAndRestore (s.writingOff n t) := rfl

theorem State.restoreFold_frame (s : State) (ls : List Line) : SameBut [.items] s (ls.foldl State.restore s) :=
  SameBut.foldl (fun s l => State.restore_frame s l) ls s

theorem State.killFold_frame (s : State) (ns : List Nat) :
    SameBut [.items, .stations, .tickets, .drops] s (ns.foldl State.killAndRestore s) :=
  SameBut.foldl (fun s n => killAndRestore_frame s n) ns s

section
variable (s : State) (n : Nat) (t : Tab)

theorem State.writingOff_tickets : (s.writingOff n t).tickets = s.tickets :=
  (State.restoreFold_frame _ _).tickets (by decide)

theorem State.writingOff_tabs : (s.writingOff n t).tabs = s.tabs.put n t.writtenOffTab := by
  rw [State.writingOff, State.setTab, (State.restoreFold_frame _ _).tabs (by decide)]

theorem State.writeOffTab_total : (s.writeOffTab n t).writeOffTotal = min 999999999 (s.writeOffTotal + (writeOffAmount t).1) := by
  rw [State.writeOffTab_eq, (State.killFold_frame _ _).writeOffTotal (by decide)]
  exact (State.restoreFold_frame _ _).writeOffTotal (by decide)

theorem State.writeOffTab_tabs : (s.writeOffTab n t).tabs = s.tabs.put n t.writtenOffTab := by
  rw [State.writeOffTab_eq, (State.killFold_frame _ _).tabs (by decide), State.writingOff_tabs]

end

/-- The tickets of a tab that are not yet begun, as entries of the table (R99). -/
theorem State.mem_unstarted {s : State} (hk : (s.tickets.map Prod.fst).Nodup) (n m : Nat) :
    m ∈ s.unstarted n ↔ ∃ k, s.ticket m = some k ∧ k.tab = n ∧ (k.state = .held ∨ k.state = .waiting) := by
  simp only [State.unstarted, List.mem_map, List.mem_filter, Bool.and_eq_true, Bool.or_eq_true, beq_iff_eq]
  constructor
  · rintro ⟨⟨m', k⟩, ⟨hmem, htab, hst⟩, rfl⟩
    exact ⟨k, (Table.find_iff_mem hk m' k).mpr hmem, htab, hst⟩
  · rintro ⟨k, hm, htab, hst⟩
    exact ⟨(m, k), ⟨(Table.find_iff_mem hk m k).mp hm, htab, hst⟩, rfl⟩

/-- The lines a ticket names without a voided mark, on the tab given. -/
def State.namedLines (s : State) (t : Tab) (m : Nat) : List Line :=
  ((s.ticket m).map fun k => t.lines.filter fun l => k.names l.index).getD []

/-- The lines named by the tickets not yet begun, ticket by ticket. -/
theorem State.unstarted_lines {s : State} (hk : (s.tickets.map Prod.fst).Nodup) (n : Nat) (t : Tab) :
    (s.unstarted n).flatMap (s.namedLines t) =
      (s.tickets.filter fun e => e.2.tab == n && (e.2.state == .held || e.2.state == .waiting)).flatMap fun e =>
        t.lines.filter fun l => e.2.refs.any fun r => r.index == l.index && !r.voided := by
  rw [State.unstarted, List.flatMap_map]
  refine List.flatMap_congr fun e he => ?_
  have hfind : s.ticket e.1 = some e.2 := (Table.find_iff_mem hk e.1 e.2).mpr (List.mem_of_mem_filter he)
  rw [State.namedLines, hfind]
  rfl

theorem State.MenuOk.countsFit {s : State} (h : s.MenuOk) : s.CountsFit := fun x i hi => by
  obtain ⟨-, -, -, -, -, hc⟩ := (Item.inRange_iff i).mp (h x i hi)
  exact hc

/-- The units a write-off gives back to an item (R99, R161). -/
theorem State.writeOffTab_item {s : State} {n : Nat} {t : Tab}
    (hk : (s.tickets.map Prod.fst).Nodup) (hm : s.MenuOk) (x : Nat) :
    (s.writeOffTab n t).item x = (s.item x).map fun i =>
      i.back ((unsentLines t ++ (s.unstarted n).flatMap (s.namedLines t)).map fun l => l.unitsOf x).sum := by
  have hfit : State.CountsFit { s with writeOffTotal := addCapped s.writeOffTotal (writeOffAmount t).1 } := hm.countsFit
  obtain ⟨hfit', hitems⟩ := State.restore_fold (unsentLines t) _ hfit
  have hlines : ∀ m ∈ s.unstarted n, ∃ k, (s.writingOff n t).ticket m = some k ∧
      (s.writingOff n t).ticketLines k = s.namedLines t m := by
    intro m hmem
    obtain ⟨k, hfind, htab, -⟩ := (State.mem_unstarted hk n m).mp hmem
    refine ⟨k, (State.ticket_of (State.writingOff_tickets s n t) m).trans hfind, ?_⟩
    simp only [State.ticketLines, State.writingOff_tabs, htab, Table.find_put_same, State.namedLines, hfind]
    rfl
  rw [State.writeOffTab_eq, killAndRestore_items _ _ (s.writingOff n t) hfit' hlines x]
  show (Option.map _ (State.item ((unsentLines t).foldl State.restore _) x)) = _
  rw [hitems x, Option.map_map, List.map_append, List.sum_append]
  refine congrArg (fun f => (s.item x).map f) (funext fun i => ?_)
  exact Item.back_back i _ _

/-- What a write-off leaves of the ticket table: the tickets not yet begun KILLED, every other in its state (R99). -/
theorem State.writeOffTab_ticket {s : State} (hk : (s.tickets.map Prod.fst).Nodup) (n : Nat) (t : Tab) {m : Nat} {k : Ticket}
    (hm : s.ticket m = some k) :
    ∃ k', (s.writeOffTab n t).ticket m = some k' ∧ k'.refs = k.refs ∧ (m ∉ s.unstarted n → k'.state = k.state) ∧
      (m ∈ s.unstarted n → k'.state = .killed) := by
  have hsame (a : Nat) : (s.writingOff n t).ticket a = s.ticket a := State.ticket_of (State.writingOff_tickets s n t) a
  refine killAndRestore_fold (s.unstarted n) (s.writingOff n t) (fun a ha x hx => ?_) m k ((hsame m).trans hm)
  obtain ⟨y, hy, -, hst⟩ := (State.mem_unstarted hk n a).mp ha
  rw [hsame a, hy] at hx
  cases hx
  rcases hst with h | h
  · rw [h]
    decide
  · rw [h]
    decide

/-- Settles O48: the checks pass, and the state before the retirement check is read field by field: the total, the items by the
units of the lines given back, the tab, and the tickets by whether they had begun. -/
theorem writeOffSettlesTab : Obligations.WriteOffSettlesTab := by
  intro tab t s ha ht htakes hok shares unpaid amount count killed paid unstarted back
  have hkeys := hok.1
  have hoff : Machine.writeOff tab s = ((s.writeOffTab tab t).retireCheck tab,
      okWith [u16 tab, u32 (writeOffAmount t).1, u8 (writeOffAmount t).2, u8 (s.unstarted tab).length, u8 (unsentLines t).length,
        u32 (s.writeOffTab tab t).writeOffTotal]) := by
    simp only [Machine.writeOff, ht, writeOffRefusal_none htakes]
  have hkilled : (s.unstarted tab).length = killed := by
    rw [State.unstarted, List.length_map]
    exact (List.countP_eq_length_filter ..).symm
  have hunsent : (unsentLines t).length = t.lines.countP fun l => !l.voided && l.stage == .unsent :=
    (List.countP_eq_length_filter ..).symm
  rw [State.writeOffTab_total, hkilled, hunsent, writeOffAmount_eq htakes] at hoff
  refine ⟨s.writeOffTab tab t, answers_of_owner rfl ha hoff, writeOffTab_frame s tab t, ?_, fun hmenu x => ?_, ?_,
    fun m hne => ?_, fun n k hn htab hst => ?_, fun n k hn hnot => ?_⟩
  · rw [State.writeOffTab_total, writeOffAmount_eq htakes]
  · rw [State.writeOffTab_item hkeys hmenu x, State.unstarted_lines hkeys]
    rfl
  · have hrange := (State.tab_some ht).1
    rw [State.tab, if_pos hrange, State.writeOffTab_tabs, Table.find_put_same, Tab.writtenOffTab_eq]
    rfl
  · rw [State.tab, State.tab, State.writeOffTab_tabs, Table.find_put_other _ _ _ _ hne]
  · obtain ⟨k', hk', hrefs, -, hdead⟩ := State.writeOffTab_ticket hkeys tab t hn
    exact ⟨k', hk', hdead ((State.mem_unstarted hkeys tab n).mpr ⟨k, hn, htab, hst⟩), hrefs⟩
  · obtain ⟨k', hk', hrefs, hkept, -⟩ := State.writeOffTab_ticket hkeys tab t hn
    refine ⟨k', hk', hkept fun hmem => hnot ?_, hrefs⟩
    obtain ⟨y, hy, htab, hst⟩ := (State.mem_unstarted hkeys tab n).mp hmem
    rw [hn] at hy
    cases hy
    exact ⟨htab, hst⟩

end Sys2Proof.Machine

/-! PROOFS. The split computation (R136 to R141): the largest remainder method (O43), and that every amount of the shares adds up to
the tab's (O42). -/

namespace Sys2Proof.Machine

/-! ### Sums over lists -/

theorem sum_map_sum_comm {α β : Type} (as : List α) (bs : List β) (f : α → β → Nat) :
    (as.map fun a => (bs.map fun b => f a b).sum).sum = (bs.map fun b => (as.map fun a => f a b).sum).sum := by
  induction as with
  | nil => simp
  | cons a rest ih => simp only [List.map_cons, List.sum_cons, ih, List.sum_map_add]

theorem sum_map_indicator {α : Type} (l : List α) (p : α → Bool) : (l.map fun a => if p a = true then 1 else 0).sum = l.countP p := by
  induction l with
  | nil => rfl
  | cons a rest ih => cases hp : p a <;> simp [hp, ih, Nat.add_comm]

theorem sum_map_indicator_mul {α : Type} (l : List α) (p : α → Bool) (c : Nat) :
    (l.map fun a => if p a = true then c else 0).sum = l.countP p * c := by
  induction l with
  | nil => simp
  | cons a rest ih => cases hp : p a <;> simp [hp, ih, Nat.add_mul, Nat.add_comm]

theorem map_getD_range (l : List Nat) : (List.range l.length).map (fun i => l.getD i 0) = l := by
  refine List.ext_getElem (by simp) fun i h1 h2 => ?_
  simp [h2]

theorem sum_map_getD {l : List Nat} {n : Nat} (h : l.length = n) : ((List.range n).map fun i => l.getD i 0).sum = l.sum := by
  subst h
  rw [map_getD_range]

/-! ### Ranks among remainders (R139, R140) -/

/-- Index m stands ahead of index i: a larger remainder, or an equal one at a lower number. -/
def standsBefore (rems : List Nat) (m i : Nat) : Prop := rems.getD i 0 < rems.getD m 0 ∨ (rems.getD m 0 = rems.getD i 0 ∧ m < i)

theorem standsBefore_irrefl (rems : List Nat) (i : Nat) : ¬standsBefore rems i i := by
  unfold standsBefore
  omega

theorem standsBefore.trans {rems : List Nat} {m i j : Nat} (h : standsBefore rems m i) (h' : standsBefore rems i j) :
    standsBefore rems m j := by
  unfold standsBefore at *
  omega

theorem rankOf_eq_countP (rems : List Nat) (i : Nat) :
    rankOf rems i = (List.range rems.length).countP fun m =>
      decide (rems.getD i 0 < rems.getD m 0) || (rems.getD m 0 == rems.getD i 0 && decide (m < i)) :=
  (List.countP_eq_length_filter ..).symm

/-- A rank is how many indices stand ahead. -/
theorem rankOf_eq_card (rems : List Nat) (i : Nat) [DecidablePred fun m => standsBefore rems m i] :
    rankOf rems i = ((Finset.range rems.length).filter fun m => standsBefore rems m i).card := by
  rw [rankOf, Finset.card_def, Finset.filter_val, Finset.range_val, Multiset.range, Multiset.filter_coe, Multiset.coe_card]
  congr 1
  refine List.filter_congr fun m _ => ?_
  rw [Bool.eq_iff_iff]
  simp [standsBefore]

theorem rankOf_lt_of_standsBefore {rems : List Nat} {i j : Nat} (hi : i < rems.length) (h : standsBefore rems i j) :
    rankOf rems i < rankOf rems j := by
  classical
  rw [rankOf_eq_card, rankOf_eq_card]
  refine Finset.card_lt_card ((Finset.ssubset_iff_of_subset fun m hm => ?_).mpr
    ⟨i, Finset.mem_filter.mpr ⟨Finset.mem_range.mpr hi, h⟩, fun hself => standsBefore_irrefl rems i (Finset.mem_filter.mp hself).2⟩)
  obtain ⟨hm, hbefore⟩ := Finset.mem_filter.mp hm
  exact Finset.mem_filter.mpr ⟨hm, hbefore.trans h⟩

theorem standsBefore_total {rems : List Nat} {i j : Nat} (h : i ≠ j) : standsBefore rems i j ∨ standsBefore rems j i := by
  unfold standsBefore
  omega

theorem rankOf_injOn (rems : List Nat) : Set.InjOn (rankOf rems) (Finset.range rems.length) := by
  intro i hi j hj hrank
  by_contra hne
  have hi : i < rems.length := Finset.mem_range.mp hi
  have hj : j < rems.length := Finset.mem_range.mp hj
  rcases standsBefore_total hne with h | h
  · exact absurd hrank (rankOf_lt_of_standsBefore hi h).ne
  · exact absurd hrank (rankOf_lt_of_standsBefore hj h).ne'

theorem rankOf_lt_length {rems : List Nat} {i : Nat} (hi : i < rems.length) : rankOf rems i < rems.length := by
  classical
  rw [rankOf_eq_card]
  have hproper := (Finset.ssubset_iff_of_subset (Finset.filter_subset (fun m => standsBefore rems m i) _)).mpr
    ⟨i, Finset.mem_range.mpr hi, fun hself => standsBefore_irrefl rems i (Finset.mem_filter.mp hself).2⟩
  exact (Finset.card_lt_card hproper).trans_eq (Finset.card_range _)

/-- The ranks are the numbers below the length, each once: as many indices rank below a number as the number says. -/
theorem countP_rankOf_lt {rems : List Nat} {left : Nat} (h : left ≤ rems.length) :
    (List.range rems.length).countP (fun i => decide (rankOf rems i < left)) = left := by
  have himage : (Finset.range rems.length).image (rankOf rems) = Finset.range rems.length := by
    refine Finset.eq_of_subset_of_card_le (fun r hr => ?_) ?_
    · obtain ⟨i, hi, rfl⟩ := Finset.mem_image.mp hr
      exact Finset.mem_range.mpr (rankOf_lt_length (Finset.mem_range.mp hi))
    · rw [Finset.card_image_of_injOn (rankOf_injOn rems)]
  have hlow : ((Finset.range rems.length).filter fun i => rankOf rems i < left).image (rankOf rems) = Finset.range left := by
    rw [← Finset.filter_image (p := fun r => r < left), himage]
    ext r
    simp only [Finset.mem_filter, Finset.mem_range]
    omega
  have hcard := congrArg Finset.card hlow
  rw [Finset.card_image_of_injOn ((rankOf_injOn rems).mono (Finset.coe_subset.mpr (Finset.filter_subset _ _))),
    Finset.card_range] at hcard
  rw [List.countP_eq_length_filter]
  exact hcard

/-! ### The largest remainder method -/

section
variable (rate : Nat) (bases : List Nat)

/-- The remainders the method drops. -/
def remaindersOf : List Nat := bases.map fun b => b * rate % 10000

/-- The units left over once the floors are given out. -/
def leftoverOf (amount : Nat) : Nat := amount - (bases.map fun b => b * rate / 10000).sum

theorem remaindersOf_length : (remaindersOf rate bases).length = bases.length := by
  simp [remaindersOf]

theorem remaindersOf_getD (i : Nat) : (remaindersOf rate bases).getD i 0 = bases.getD i 0 * rate % 10000 := by
  rcases Nat.lt_or_ge i bases.length with h | h
  · simp [remaindersOf, h]
  · simp [remaindersOf, h]

theorem largestRemainder_length (amount : Nat) : (largestRemainder amount rate bases).length = bases.length := by
  simp [largestRemainder]

/-- The part at an index: its floor, and a unit more when its rank is below the leftover. -/
theorem largestRemainder_getD (amount : Nat) {i : Nat} (h : i < bases.length) :
    (largestRemainder amount rate bases).getD i 0 =
      bases.getD i 0 * rate / 10000 +
        if rankOf (remaindersOf rate bases) i < leftoverOf rate bases amount then 1 else 0 := by
  simp [largestRemainder, h, remaindersOf, leftoverOf]
  rfl

/-- What is divided is the floors' ten-thousands and the remainders. -/
theorem sum_mul_rate : bases.sum * rate = 10000 * (bases.map fun b => b * rate / 10000).sum + (remaindersOf rate bases).sum := by
  induction bases with
  | nil => simp [remaindersOf]
  | cons b rest ih =>
    simp only [remaindersOf, List.map_cons, List.sum_cons, Nat.add_mul] at ih ⊢
    omega

/-- Each remainder is below a whole unit, so they sum to less than a unit for each one that is not 0. -/
theorem sum_remaindersOf_le : (remaindersOf rate bases).sum ≤ 9999 * (remaindersOf rate bases).countP fun r => decide (0 < r) := by
  induction bases with
  | nil => simp [remaindersOf]
  | cons b rest ih =>
    simp only [remaindersOf, List.map_cons, List.sum_cons, List.countP_cons, decide_eq_true_eq] at ih ⊢
    have hlt := Nat.mod_lt (b * rate) (show 10000 > 0 by decide)
    split
    · omega
    · omega

/-- An amount rounded half-up covers the floors, and its leftover has a unit for no more indices than dropped something. -/
theorem leftover_spec :
    let amount := (bases.sum * rate + 5000) / 10000
    (bases.map fun b => b * rate / 10000).sum + leftoverOf rate bases amount = amount ∧
      leftoverOf rate bases amount ≤ (remaindersOf rate bases).countP fun r => decide (0 < r) := by
  have hsum := sum_mul_rate rate bases
  have hrem := sum_remaindersOf_le rate bases
  simp only [leftoverOf, hsum]
  omega

theorem leftover_le_length :
    leftoverOf rate bases ((bases.sum * rate + 5000) / 10000) ≤ (remaindersOf rate bases).length :=
  (leftover_spec rate bases).2.trans List.countP_le_length

/-- The parts sum to the amount: the floors and as many units as are left over. -/
theorem largestRemainder_sum {amount : Nat} (h : amount = (bases.sum * rate + 5000) / 10000) :
    (largestRemainder amount rate bases).sum = amount := by
  obtain ⟨hcover, -⟩ := leftover_spec rate bases
  have hcount := countP_rankOf_lt (leftover_le_length rate bases)
  rw [← h, remaindersOf_length] at hcount
  rw [← h] at hcover
  have hparts : (List.range bases.length).map (fun i => (largestRemainder amount rate bases).getD i 0) =
      (List.range bases.length).map fun i => (bases.map fun b => b * rate / 10000).getD i 0 +
        if decide (rankOf (remaindersOf rate bases) i < leftoverOf rate bases amount) = true then 1 else 0 := by
    refine List.map_congr_left fun i hi => ?_
    have hi : i < bases.length := List.mem_range.mp hi
    rw [largestRemainder_getD rate bases amount hi]
    simp [hi]
  rw [← sum_map_getD (largestRemainder_length rate bases amount), hparts, List.sum_map_add, sum_map_indicator, hcount,
    sum_map_getD (by simp)]
  exact hcover

/-- Nothing is added where nothing was dropped: such an index ranks behind every one that dropped something. -/
theorem rem_pos_of_unit {i : Nat}
    (h : rankOf (remaindersOf rate bases) i < leftoverOf rate bases ((bases.sum * rate + 5000) / 10000)) :
    0 < (remaindersOf rate bases).getD i 0 := by
  by_contra hzero
  have hzero : (remaindersOf rate bases).getD i 0 = 0 := by omega
  have hpos : (remaindersOf rate bases).countP (fun r => decide (0 < r)) ≤ rankOf (remaindersOf rate bases) i := by
    rw [rankOf_eq_countP]
    conv_lhs => rw [← map_getD_range (remaindersOf rate bases), List.countP_map]
    refine List.countP_mono_left fun m _ hm => ?_
    have hm : 0 < (remaindersOf rate bases).getD m 0 := by simpa using hm
    rw [hzero, decide_eq_true hm, Bool.true_or]
  have hleft := (leftover_spec rate bases).2
  omega

end

/-- Settles O43: a unit goes to the indices whose rank is below the leftover, and ranks follow the remainders. -/
theorem leftoverGoesToLargestRemainders : Obligations.LeftoverGoesToLargestRemainders := by
  intro rate bases amount out floor rem
  have hpart (i : Nat) (hi : i < bases.length) : out.getD i 0 = floor i +
      if rankOf (remaindersOf rate bases) i < leftoverOf rate bases amount then 1 else 0 :=
    largestRemainder_getD rate bases amount hi
  have hrem (i : Nat) : (remaindersOf rate bases).getD i 0 = rem i := remaindersOf_getD rate bases i
  refine ⟨largestRemainder_length rate bases amount, largestRemainder_sum rate bases rfl, fun i hi => ?_, fun i j hi hj hunit hahead => ?_⟩
  · rw [hpart i hi]
    split
    · rename_i hrank
      exact .inr ⟨rfl, hrem i ▸ rem_pos_of_unit rate bases hrank⟩
    · exact .inl rfl
  · have hj' : rankOf (remaindersOf rate bases) j < leftoverOf rate bases amount := by
      by_contra hnot
      rw [hpart j hj, if_neg hnot] at hunit
      omega
    have hbefore : standsBefore (remaindersOf rate bases) i j := by
      simp only [standsBefore, hrem]
      omega
    have hlt := rankOf_lt_of_standsBefore (by rw [remaindersOf_length]; exact hi) hbefore
    rw [hpart i hi, if_pos (hlt.trans hj')]

/-! ### The spread of a line's goods (R138) -/

/-- The scan from any cursor meets each share number once. -/
theorem scanFrom_perm {n : Nat} (hn : 1 ≤ n) (cursor : Nat) : (scanFrom n cursor).Perm (shareNumbers n) := by
  have hnodup : (scanFrom n cursor).Nodup := by
    refine List.Nodup.map_on (fun i hi j hj h => ?_) List.nodup_range
    have hmod : cursor - 1 + i ≡ cursor - 1 + j [MOD n] := Nat.succ.inj h
    exact (Nat.ModEq.add_left_cancel' _ hmod).eq_of_lt_of_lt (List.mem_range.mp hi) (List.mem_range.mp hj)
  have hsub : scanFrom n cursor ⊆ shareNumbers n := fun j hj => by
    obtain ⟨i, -, rfl⟩ := List.mem_map.mp hj
    have hlt := Nat.mod_lt (cursor - 1 + i) hn
    simp only [shareNumbers, List.mem_range'_1]
    omega
  exact (List.subperm_of_subset hnodup hsub).perm_of_length_le (by simp [scanFrom, shareNumbers])

theorem shareNumbers_nodup (n : Nat) : (shareNumbers n).Nodup := List.nodup_range'

/-- How many of the shares 1 to n stand in a set. -/
def setSize (n : Nat) (set : BitVec 12) : Nat := ((shareNumbers n).filter (inSet set)).length

/-- A set that fits n shares names one of them. -/
theorem setSize_pos {n : Nat} {set : BitVec 12} (h : SetFits n set) : 0 < setSize n set := by
  obtain ⟨hne, hle⟩ := h
  obtain ⟨i, hi⟩ : ∃ i, set.getLsbD i = true := by
    by_contra hnone
    refine hne (BitVec.eq_of_getLsbD_eq fun i _ => ?_)
    simpa using fun hbit => hnone ⟨i, hbit⟩
  have hin : inSet set (i + 1) = true := hi
  have hle := hle (i + 1) (by omega) hin
  refine List.length_pos_of_mem (a := i + 1) (List.mem_filter.mpr ⟨?_, hin⟩)
  simp only [shareNumbers, List.mem_range'_1]
  omega

section
variable {n : Nat} (hn : 1 ≤ n) (cursor : Nat) (set : BitVec 12) (r : Nat)
include hn

theorem mem_unitTakers {j : Nat} (h : j ∈ unitTakers n cursor set r) : j ∈ shareNumbers n ∧ inSet set j = true := by
  obtain ⟨hscan, hin⟩ := List.mem_filter.mp (List.mem_of_mem_take h)
  exact ⟨(scanFrom_perm hn cursor).mem_iff.mp hscan, hin⟩

theorem unitTakers_nodup : (unitTakers n cursor set r).Nodup :=
  (((scanFrom_perm hn cursor).nodup_iff.mpr (shareNumbers_nodup n)).filter _).take

theorem unitTakers_length (hr : r ≤ setSize n set) : (unitTakers n cursor set r).length = r := by
  rw [unitTakers, List.length_take, ((scanFrom_perm hn cursor).filter _).length_eq]
  exact Nat.min_eq_left hr

/-- As many shares of the set take an odd unit as there are takers. -/
theorem countP_unitTakers : (shareNumbers n).countP (fun j => inSet set j && (unitTakers n cursor set r).contains j) =
    (unitTakers n cursor set r).length := by
  rw [List.countP_eq_length_filter]
  refine List.Perm.length_eq ((List.perm_ext_iff_of_nodup ((shareNumbers_nodup n).filter _) (unitTakers_nodup hn cursor set r)).mpr
    fun j => ?_)
  simp only [List.mem_filter, Bool.and_eq_true, List.contains_iff_mem]
  constructor
  · rintro ⟨-, -, h⟩
    exact h
  · intro h
    obtain ⟨hj, hin⟩ := mem_unitTakers hn cursor set r h
    exact ⟨hj, hin, h⟩

end

theorem portions_length (n g k : Nat) (set : BitVec 12) (takers : List Nat) : (portions n g k set takers).length = n := by
  simp [portions, shareNumbers]

/-- The portions of a line whose set fits sum to its goods (R138). -/
theorem portions_sum {n : Nat} (hn : 1 ≤ n) (cursor g : Nat) {set : BitVec 12} (h : SetFits n set) :
    (portions n g (setSize n set) set (unitTakers n cursor set (g % setSize n set))).sum = g := by
  have hk := setSize_pos h
  have hlen := unitTakers_length hn cursor set (g % setSize n set) (Nat.mod_lt g hk).le
  have hunits := countP_unitTakers hn cursor set (g % setSize n set)
  have hsize : (shareNumbers n).countP (inSet set) = setSize n set := List.countP_eq_length_filter ..
  have hsplit : portions n g (setSize n set) set (unitTakers n cursor set (g % setSize n set)) =
      (shareNumbers n).map fun j => (if inSet set j = true then g / setSize n set else 0) +
        if (inSet set j && (unitTakers n cursor set (g % setSize n set)).contains j) = true then 1 else 0 := by
    refine List.map_congr_left fun j _ => ?_
    cases inSet set j with
    | false => simp
    | true => simp
  rw [hsplit, List.sum_map_add, sum_map_indicator_mul, sum_map_indicator, hunits, hlen, hsize]
  exact Nat.div_add_mod g _

/-! ### Rows of portions -/

theorem spread_lengths (n : Nat) (lines : List Line) : ∀ cursor, ∀ r ∈ spread n cursor lines, r.2.length = n := by
  induction lines with
  | nil => simp [spread]
  | cons l rest ih =>
    intro cursor r hr
    rcases List.mem_cons.mp hr with rfl | hr
    · exact portions_length ..
    · exact ih _ r hr

/-- The portions of the rows of the classes chosen sum to the goods of the lines of those classes. -/
theorem spread_sum {n : Nat} (hn : 1 ≤ n) (pick : Nat → Bool) (lines : List Line) (hfit : ∀ l ∈ lines, SetFits n l.shares) :
    ∀ cursor, (((spread n cursor lines).filter fun r => pick r.1).map fun r => r.2.sum).sum =
      goodsOf (lines.filter fun l => pick l.cls) := by
  induction lines with
  | nil => simp [spread, goodsOf]
  | cons l rest ih =>
    intro cursor
    have hl := portions_sum hn cursor l.goods (hfit l List.mem_cons_self)
    have hrest := ih (fun m hm => hfit m (List.mem_cons_of_mem l hm))
    simp only [spread, List.filter_cons]
    cases pick l.cls with
    | false => exact hrest _
    | true =>
      simp only [if_true, List.map_cons, List.sum_cons, goodsOf] at hrest ⊢
      rw [hrest]
      exact congrArg (· + _) hl

/-- What the shares took of rows of n portions each sums to the portions. -/
theorem takenBy_sum {n : Nat} {rows : List (Nat × List Nat)} (h : ∀ r ∈ rows, r.2.length = n) :
    ((shareNumbers n).map (takenBy rows)).sum = (rows.map fun r => r.2.sum).sum := by
  have hcomm := sum_map_sum_comm (shareNumbers n) rows fun j r => r.2.getD (j - 1) 0
  refine hcomm.trans (congrArg List.sum (List.map_congr_left fun r hr => ?_))
  rw [← sum_map_getD (h r hr), shareNumbers, List.range'_eq_map_range, List.map_map]
  simp [Function.comp_def]

section
variable (rate : Nat → Nat) (service n : Nat) (lines : List Line)

/-- What each share takes of the goods of the classes chosen (R138). -/
def takenOf (pick : Nat → Bool) : List Nat :=
  (shareNumbers n).map (takenBy ((spread n 1 (activeLines lines)).filter fun r => pick r.1))

theorem takenOf_length (pick : Nat → Bool) : (takenOf n lines pick).length = n := by
  simp [takenOf, shareNumbers]

theorem takenOf_sum (hn : 1 ≤ n) (hfit : ∀ l ∈ lines, l.voided = false → SetFits n l.shares) (pick : Nat → Bool) :
    (takenOf n lines pick).sum = goodsOf ((activeLines lines).filter fun l => pick l.cls) := by
  have hactive : ∀ l ∈ activeLines lines, SetFits n l.shares := fun l hl => by
    obtain ⟨hmem, hv⟩ := List.mem_filter.mp hl
    exact hfit l hmem (by simpa using hv)
  rw [takenOf, takenBy_sum fun r hr => spread_lengths n _ 1 r (List.mem_of_mem_filter hr), spread_sum hn pick _ hactive]

/-- The shares' parts of a class's tax (R139). -/
def classParts (c : Nat) : List Nat :=
  largestRemainder (roundRate (classGoods (activeLines lines) c) (rate c)) (rate c) (takenOf n lines (· == c))

/-- The shares' parts of the service charge (R140). -/
def serviceParts : List Nat :=
  largestRemainder (roundRate (goodsOf (activeLines lines)) service) service (takenOf n lines fun _ => true)

theorem classParts_length (c : Nat) : (classParts rate n lines c).length = n := by
  rw [classParts, largestRemainder_length, takenOf_length]

theorem serviceParts_length : (serviceParts service n lines).length = n := by
  rw [serviceParts, largestRemainder_length, takenOf_length]

theorem classParts_sum (hn : 1 ≤ n) (hfit : ∀ l ∈ lines, l.voided = false → SetFits n l.shares) (c : Nat) :
    (classParts rate n lines c).sum = roundRate (classGoods (activeLines lines) c) (rate c) := by
  refine largestRemainder_sum _ _ ?_
  rw [takenOf_sum n lines hn hfit]
  have hfilter : ((activeLines lines).filter fun l => l.cls == c) = (activeLines lines).filter fun l => l.cls = c :=
    List.filter_congr fun l _ => rfl
  rw [hfilter]
  rfl

theorem serviceParts_sum (hn : 1 ≤ n) (hfit : ∀ l ∈ lines, l.voided = false → SetFits n l.shares) :
    (serviceParts service n lines).sum = roundRate (goodsOf (activeLines lines)) service := by
  refine largestRemainder_sum _ _ ?_
  rw [takenOf_sum n lines hn hfit, List.filter_true]
  rfl

/-- The share records a plan makes, part by part (R136 to R141). -/
theorem splitShares_eq :
    splitShares rate service (totalsOf rate service lines) n lines = (List.range n).map fun i =>
      { goods := (takenOf n lines fun _ => true).getD i 0
        taxes := (List.range 8).map fun c => (classParts rate n lines c).getD i 0
        service := (serviceParts service n lines).getD i 0
        total := (takenOf n lines fun _ => true).getD i 0 +
          ((List.range 8).map fun c => (classParts rate n lines c).getD i 0).sum + (serviceParts service n lines).getD i 0
        pay := .unpaid } := by
  have hall : (takenOf n lines fun _ => true) = (shareNumbers n).map (takenBy (spread n 1 (activeLines lines))) := by
    rw [takenOf, List.filter_true]
  have htaxes : ((List.range 8).map fun c => largestRemainder ((totalsOf rate service lines).taxes.getD c 0) (rate c)
      ((shareNumbers n).map (takenBy ((spread n 1 (activeLines lines)).filter fun r => r.1 == c)))) =
        (List.range 8).map (classParts rate n lines) := by
    refine List.map_congr_left fun c hc => ?_
    have hc : c < 8 := List.mem_range.mp hc
    simp [totalsOf, hc, classParts, takenOf]
  simp only [splitShares, htaxes, ← hall, List.map_map]
  rfl

end

/-- Settles O42: each amount is divided whole: the goods by the spread, the taxes and the service by the largest remainders over
bases that sum to the tab's; the totals then by exchanging the sums over shares and over classes. -/
theorem sharesAddUpToTab : Obligations.SharesAddUpToTab := by
  intro rate service n lines hn hfit totals shares
  have hshares : shares = _ := splitShares_eq rate service n lines
  have hgoods : (takenOf n lines fun _ => true).sum = totals.goods := by
    rw [takenOf_sum n lines hn.1 hfit, List.filter_true]
    rfl
  have htax (c : Nat) : ((List.range n).map fun i => (classParts rate n lines c).getD i 0).sum =
      roundRate (classGoods (activeLines lines) c) (rate c) := by
    rw [sum_map_getD (classParts_length rate n lines c), classParts_sum rate n lines hn.1 hfit]
  have hservice : (serviceParts service n lines).sum = totals.service := serviceParts_sum service n lines hn.1 hfit
  refine ⟨splitShares_length .., ?_, fun c hc => ?_, ?_, ?_⟩
  · rw [hshares, List.map_map]
    exact (sum_map_getD (takenOf_length n lines _)).trans hgoods
  · have hclass : totals.taxes.getD c 0 = roundRate (classGoods (activeLines lines) c) (rate c) := by
      simp [totals, totalsOf, hc]
    rw [hshares, List.map_map, hclass, ← htax c]
    exact congrArg List.sum (List.map_congr_left fun i _ => by simp [hc])
  · rw [hshares, List.map_map]
    exact (sum_map_getD (serviceParts_length service n lines)).trans hservice
  · have htotal : shares.map Share.total = (List.range n).map fun i => (takenOf n lines fun _ => true).getD i 0 +
        ((List.range 8).map fun c => (classParts rate n lines c).getD i 0).sum + (serviceParts service n lines).getD i 0 := by
      rw [hshares, List.map_map]
      rfl
    rw [htotal, List.sum_map_add, List.sum_map_add, sum_map_getD (takenOf_length n lines _), hgoods,
      sum_map_getD (serviceParts_length service n lines), hservice, sum_map_sum_comm]
    simp only [htax]
    rfl

end Sys2Proof.Machine

/-! PROOFS. The reset (O14), the seconds tick and what it brings (O15, O17, O18), and the kitchen requests that read the lists as
they stand: REDRAW-ME (O37), QUOTE (O39) and FIRE (O33). -/

namespace Sys2Proof.Machine

/-! ### The reset (R14 to R17) -/

theorem shiftOut_nil (n : Nat) : shiftOut [] n = List.replicate n 0xFF#8 := by
  simp [shiftOut]

/-- A transfer cut by the reset shifts out all ones; with chip select high nothing is shifted (R17, R182). -/
theorem linkOut_cut {s t : State} (h : t.transfer = s.transfer.cut) (n : Nat) :
    t.linkOut n = if s.transfer = .none then [] else List.replicate n 0xFF#8 := by
  cases hs : s.transfer with
  | none => simp [State.linkOut, h, hs, Transfer.cut]
  | active a => simp [State.linkOut, h, hs, Transfer.cut, shiftOut_nil]
  | ignored => simp [State.linkOut, h, hs, Transfer.cut, shiftOut_nil]

theorem State.coldKeeping_frame (s : State) (m : Mode) :
    SameBut [.mode, .resetPinLow, .supplyNotGood, .transfer, .pending] (State.cold s.cfgHigh) (s.coldKeeping m) := by
  constructor <;> intro hn <;> first | rfl | exact absurd (by simp) hn

theorem coldLanes_role (cfg : Bool) (l : Fin 4) :
    (coldLanes cfg)[l].role = if l = 3 ∨ (l = 2 ∧ cfg = false) then .kitchen else .till := by
  cases cfg <;> revert l <;> decide

theorem State.coldKeeping_drop (s : State) (m : Mode) (d : Nat) : (s.coldKeeping m).drop d = .cold := by
  unfold State.drop
  split
  · exact Vector.getElem_replicate _
  · rfl

/-- Settles O14: the hold and the settle's end put the cold start values under what the reset keeps; a release clears its cause. -/
theorem resetSequence : Obligations.ResetSequence := by
  refine ⟨fun c s => ?_, fun cfg s hm => ?_, fun s hm => ?_⟩
  · cases c with
    | pinLow =>
      exact ⟨_, rfl, rfl, (Bool.or_true _).symm, (Bool.or_false _).symm,
        (s.coldKeeping_frame .held).step (qs := [.resetPinLow]) (by constructor <;> intro hn <;> first | rfl | exact absurd (by simp) hn)
          (by simp) (by simp), linkOut_cut rfl⟩
    | supplyNotGood =>
      exact ⟨_, rfl, rfl, (Bool.or_false _).symm, (Bool.or_true _).symm,
        (s.coldKeeping_frame .held).step (qs := [.supplyNotGood])
          (by constructor <;> intro hn <;> first | rfl | exact absurd (by simp) hn) (by simp) (by simp), linkOut_cut rfl⟩
  · have hexec (c : ResetCause) : exec (.resetRelease c cfg) s =
        if (s.clearCause c).resetPinLow || (s.clearCause c).supplyNotGood then .next (s.clearCause c)
        else .next { s.clearCause c with mode := .settling, cfgHigh := cfg } := if_pos hm
    refine ⟨fun h => ?_, fun h => ?_, fun h => ?_, fun h => ?_⟩
    · rw [hexec, if_neg (by simp [State.clearCause, h])]
      rfl
    · rw [hexec, if_neg (by simp [State.clearCause, h])]
      rfl
    · rw [hexec, if_pos (by simp [State.clearCause, h])]
      rfl
    · rw [hexec, if_pos (by simp [State.clearCause, h])]
      rfl
  · have hexec : exec .settleEnd s = .next (s.coldKeeping .operating) := if_pos hm
    refine ⟨_, hexec, ?_, ⟨rfl, rfl, rfl, rfl, rfl, rfl, rfl, rfl, rfl⟩, coldLanes_role s.cfgHigh, fun d => ?_⟩
    · constructor <;> intro hn <;> first | rfl | exact absurd (by simp) hn
    · rw [State.coldKeeping_drop]
      exact ⟨rfl, rfl⟩

/-! ### The seconds tick (R11, R116, R117) -/

theorem State.riseAt_eq_some {s : State} {n : Nat} {r : DueRise} :
    s.riseAt n = some r ↔ ∃ k, s.ticket n = some k ∧ k.state = .live ∧ k.level < 3 ∧
      k.target + k.level * (s.station k.station).interval ≤ k.age ∧ r = ⟨n, k.age⟩ := by
  unfold State.riseAt
  cases hk : s.ticket n with
  | none => simp
  | some k =>
    dsimp only
    split
    · rename_i hdue
      simp [hdue, eq_comm]
    · rename_i hdue
      simp only [Option.some.injEq, exists_eq_left', reduceCtorEq, false_iff]
      exact fun h => hdue ⟨h.1, h.2.1, h.2.2.1⟩

theorem Ticket.aged_live {k : Ticket} (h : k.state = .live) : k.aged = { k with age := min 65535 (k.age + 1) } := if_pos h

/-- Only a LIVE ticket is LIVE after its age went up, and only its age moved. -/
theorem Ticket.aged_state (k : Ticket) : k.aged.state = k.state := by
  unfold Ticket.aged
  split <;> rfl

/-- The state a tick judges its rises in: the clock and the ages moved on. -/
def State.advanced (s : State) : State :=
  { s with clock := clockAfter s.clock 1, tickets := s.tickets.map fun (e : Nat × Ticket) => (e.1, e.2.aged) }

theorem State.advanced_ticket (s : State) (n : Nat) : s.advanced.ticket n = (s.ticket n).map Ticket.aged :=
  Table.find_map s.tickets Ticket.aged n

theorem State.mem_dueRises_advanced (s : State) (r : DueRise) :
    r ∈ s.advanced.dueRises ↔ ∃ d k, isDrop d = true ∧ r.ticket ∈ (s.station d).live ∧ s.ticket r.ticket = some k ∧
      k.state = .live ∧ k.level < 3 ∧ k.target + k.level * (s.station k.station).interval ≤ min 65535 (k.age + 1) ∧
      r.age = min 65535 (k.age + 1) := by
  have hdrop (d : Nat) : d ∈ allDrops ↔ isDrop d = true := by
    rw [isDrop_iff, allDrops, List.mem_range'_1]
    omega
  constructor
  · intro h
    obtain ⟨n, hn, hrise⟩ := List.mem_filterMap.mp h
    obtain ⟨d, hd, hlive⟩ := List.mem_flatMap.mp hn
    obtain ⟨k', hk', hst, hlev, hdue, rfl⟩ := State.riseAt_eq_some.mp hrise
    rw [State.advanced_ticket, Option.map_eq_some_iff] at hk'
    obtain ⟨k, hk, rfl⟩ := hk'
    rw [Ticket.aged_state] at hst
    rw [Ticket.aged_live hst] at hlev hdue ⊢
    exact ⟨d, k, (hdrop d).mp hd, hlive, hk, hst, hlev, hdue, rfl⟩
  · rintro ⟨d, k, hd, hlive, hk, hst, hlev, hdue, hage⟩
    refine List.mem_filterMap.mpr ⟨r.ticket, List.mem_flatMap.mpr ⟨d, (hdrop d).mpr hd, hlive⟩, State.riseAt_eq_some.mpr ⟨k.aged, ?_⟩⟩
    rw [Ticket.aged_live hst]
    refine ⟨?_, hst, hlev, hdue, ?_⟩
    · rw [State.advanced_ticket, hk, ← Ticket.aged_live hst]
      rfl
    · rw [← hage]

theorem State.dueRises_sublist (s : State) : (s.dueRises.map DueRise.ticket).Sublist (allDrops.flatMap fun d => (s.station d).live) :=
  filterMap_sublist s.riseAt DueRise.ticket (fun n r h => by
    obtain ⟨k, -, -, -, -, rfl⟩ := State.riseAt_eq_some.mp h
    rfl) _

/-- Settles O15: with nothing outstanding the tick is the advance alone, and the rises due are judged after it. -/
theorem tickAdvancesClockAndAges : Obligations.TickAdvancesClockAndAges := by
  intro s hm hnone
  have hexec : exec .secondsTick s = .next s.tick := by
    refine (if_pos hm : execSecondsTick s = _).trans ?_
    rw [State.takeOutstanding_none s hnone]
  exact ⟨s.advanced.dueRises, hexec, s.advanced.dueRises_sublist, s.mem_dueRises_advanced⟩

/-! ### The end of a recall window (R113) -/

/-- When its tick has come, a reference is cleared and the tab of the ticket it named is checked. -/
theorem State.endWindow_ends {s : State} {d : Nat} {b : LastBumped} {k : Ticket} (hb : (s.station d).lastBumped = some b)
    (he : b.expiry = s.clock) (hk : s.ticket b.ticket = some k) :
    s.endWindow d = (s.setStation d { s.station d with lastBumped := none }).retireCheck k.tab := by
  have href : s.referencedTab d = some k.tab := by simp [State.referencedTab, hb, hk]
  simp only [State.endWindow, hb, if_pos he, href]

/-- Settles O17: what is left of the window's end is the retirement check, on the state without the reference. -/
theorem recallWindowEndRetires : Obligations.RecallWindowEndRetires := by
  intro d b k t s hm hb he hk ht s1
  have hexec : exec (.recallWindowExpiry d) s = .next (s1.retireCheck k.tab) :=
    (if_pos hm : execRecallWindowExpiry d s = _).trans (congrArg _ (State.endWindow_ends hb he hk))
  obtain ⟨hretires, hstays⟩ := State.retireCheck_spec s1 k.tab t ht
  constructor
  · intro h
    exact ⟨_, hexec, hretires h ▸ State.removeTab_spec s1 k.tab⟩
  · intro h
    rw [hexec, hstays h]

/-! ### A level rise (R117, R106, R107) -/

theorem State.stillRises_iff (r : DueRise) (s : State) :
    s.stillRises r = true ↔ ∃ k, s.ticket r.ticket = some k ∧ k.state = .live ∧ k.level < 3 ∧ k.age = r.age := by
  unfold State.stillRises
  cases s.ticket r.ticket with
  | none => simp
  | some k => simp [and_assoc]

/-- The rise before the station is told: the level and the alert. -/
def State.risen (s : State) (n station : Nat) : State :=
  (s.editTicket n fun k => { k with level := k.level + 1 }).enterAlert .overdue station

theorem State.risen_frame (s : State) (n d : Nat) : SameBut [.tickets, .alerts, .alertsFull] s (s.risen n d) :=
  (s.editTicket_frame n _).step (State.enterAlert_frame ..) (by simp) (by simp)

theorem State.risen_ticket (s : State) (n d m : Nat) :
    (s.risen n d).ticket m = if m = n then (s.ticket m).map fun k => { k with level := k.level + 1 } else s.ticket m :=
  (State.ticket_of ((State.enterAlert_frame _ _ _).tickets (by simp)) m).trans
    (Table.find_edit s.tickets n m fun k => { k with level := k.level + 1 })

theorem State.rise_unseen {s : State} {n : Nat} {k : Ticket} (hk : s.ticket n = some k) (h : n ∉ s.screen k.station) :
    s.rise n = s.risen n k.station := by
  have hscreen : (s.risen n k.station).screen k.station = s.screen k.station :=
    State.screen_of ((s.risen_frame n k.station).stations (by simp)) _
  have hnot : ((s.risen n k.station).screen k.station).contains n = false := by simpa [hscreen] using h
  simp only [State.rise, hk]
  exact if_neg (by rw [Bool.not_eq_true]; exact hnot)

theorem State.rise_shown {s : State} {n : Nat} {k : Ticket} (hk : s.ticket n = some k) (h : n ∈ s.screen k.station) :
    s.rise n = (s.risen n k.station).post k.station [.level n (k.level + 1)] := by
  have hscreen : (s.risen n k.station).screen k.station = s.screen k.station :=
    State.screen_of ((s.risen_frame n k.station).stations (by simp)) _
  have hin : ((s.risen n k.station).screen k.station).contains n = true := by simpa [hscreen] using h
  simp only [State.rise, hk]
  exact if_pos hin

/-- A rise is the level and the alert, and a change of the station's own queue. -/
theorem State.rise_risen {s : State} {n : Nat} {k : Ticket} (hk : s.ticket n = some k) :
    SameBut [.drops] (s.risen n k.station) (s.rise n) ∧ ∀ d, d ≠ k.station → (s.rise n).drop d = (s.risen n k.station).drop d := by
  by_cases h : n ∈ s.screen k.station
  · rw [State.rise_shown hk h]
    exact ⟨State.post_frame .., fun d hd => State.post_other _ _ _ d hd⟩
  · rw [State.rise_unseen hk h]
    exact ⟨SameBut.refl .., fun _ _ => rfl⟩

theorem State.drop_setDrop_station {s : State} {d : Nat} (h : s.isStation d = true) (x : Drop) : (s.setDrop d x).drop d = x :=
  State.drop_setDrop_same _ _ _ (by simp only [State.isStation, Bool.and_eq_true] at h; exact h.1)

/-- One message for a station goes to the back of its queue, or becomes a redraw when the queue is full (R107). -/
theorem State.post_one {s : State} {d : Nat} (h : s.isStation d = true) (m : Msg) :
    (s.post d [m]).drop d = { s.drop d with
      messages := if (s.drop d).messages.length < 16 then (s.drop d).messages ++ [m] else s.redrawMsgs d } := by
  by_cases hroom : (s.drop d).messages.length < 16
  · rw [State.post_fits s d [m] h (by simp) hroom, State.drop_setDrop_station h, if_pos hroom]
  · have hfull : s.post d [m] = s.redraw d := by
      unfold State.post
      rw [if_neg (by simp [h])]
      exact if_neg hroom
    rw [hfull, State.redraw, State.drop_setDrop_station h, if_neg hroom]

/-- Settles O18: the first rise of those still due is taken; its station is told by one message. -/
theorem overdueRiseRaisesLevel : Obligations.OverdueRiseRaisesLevel := by
  refine ⟨fun r s => s.stillRises_iff r, fun n age rest k s hm hdue hk => ?_⟩
  have hexec : exec (.overdueRise n) s = .next { s.rise n with risesDue := rest } := by
    change execOverdueRise n s = _
    simp only [execOverdueRise, hdue]
    exact if_pos ⟨hm, trivial⟩
  have hrisen := s.risen_frame n k.station
  obtain ⟨hsame, hother⟩ := State.rise_risen hk
  have hticket (m : Nat) : (s.rise n).ticket m = (s.risen n k.station).ticket m := State.ticket_of (hsame.tickets (by simp)) m
  have hdrops (d : Nat) : (s.risen n k.station).drop d = s.drop d := State.drop_of (hrisen.drops (by simp)) d
  refine ⟨_, hexec, ?_, ?_, fun m hne => ?_, rfl, ?_, fun d hd => ?_, fun hout => ?_, fun hin hstation => ?_⟩
  · exact (rise_frame s n).step (qs := [.risesDue]) (by constructor <;> intro hn <;> first | rfl | exact absurd (by simp) hn)
      (by simp) (by simp)
  · refine (hticket n).trans ?_
    rw [State.risen_ticket, if_pos rfl, hk]
    rfl
  · refine (hticket m).trans ?_
    rw [State.risen_ticket, if_neg hne]
  · change ((s.rise n).alerts, (s.rise n).alertsFull) = _
    rw [hsame.alerts (by simp), hsame.alertsFull (by simp)]
    exact State.enterAlert_entered (s := s) (t := s.editTicket n fun k => { k with level := k.level + 1 }) rfl rfl rfl .overdue
      k.station
  · exact (hother d hd).trans (hdrops d)
  · refine Eq.trans ?_ (hdrops k.station)
    rw [← State.rise_unseen hk hout]
    rfl
  · have hposted : (s.rise n).drop k.station = { s.drop k.station with
        messages := if (s.drop k.station).messages.length < 16 then (s.drop k.station).messages ++ [.level n (k.level + 1)]
          else (s.risen n k.station).redrawMsgs k.station } := by
      rw [State.rise_shown hk hin,
        State.post_one ((State.isStation_of (hrisen.lanes (by simp)) _).trans hstation) (.level n (k.level + 1)), hdrops]
    have hredraw : ({ s.rise n with risesDue := rest } : State).redrawMsgs k.station = (s.risen n k.station).redrawMsgs k.station :=
      State.redrawMsgs_of (s := s.risen n k.station) (t := { s.rise n with risesDue := rest }) (hsame.stations (by simp))
        (hsame.tickets (by simp)) (hsame.tabs (by simp)) _
    rw [hredraw]
    exact hposted

/-! ### REDRAW-ME (R107, R108) -/

/-- A sender that a station request is admitted from is a drop. -/
theorem State.isDrop_of_admits {s : State} {k : ReqKind} {src : Nat} (h : s.admits k src = true)
    (hk : roleAllows k .controller = false) : isDrop src = true := by
  obtain ⟨-, hask, -⟩ := (s.admits_iff k src).mp h
  rcases State.sender_of_admits h with rfl | htill | hstation
  · rw [State.mayAsk_controller, hk] at hask
    exact absurd hask (by decide)
  · simp only [State.isTill, Bool.and_eq_true] at htill
    exact htill.1
  · simp only [State.isStation, Bool.and_eq_true] at hstation
    exact hstation.1

/-- Settles O37. -/
theorem redrawMeRefillsQueue : Obligations.RedrawMeRefillsQueue := by
  intro src s ha
  have hd := State.isDrop_of_admits ha rfl
  exact ⟨_, answers_of_owner (i := .redrawMe src) rfl ha (show redrawRequest src s = (s.redraw src, _) from rfl),
    State.redraw_frame s src, fun d hne => State.drop_setDrop_other _ _ _ _ hne, (State.drop_setDrop_same _ _ _ hd).trans rfl⟩

/-! ### QUOTE (R82, R118, R119) -/

/-- The quote is the product over sixteen rounded up, at most 5,999. -/
theorem State.quoteOf_isQuote (s : State) (d : Nat) : s.IsQuote d (s.quoteOf d) := by
  simp only [State.IsQuote, State.quoteOf]
  omega

theorem State.resolve_lost {s : State} {route : Option Nat} (h : route = none ∨ ∃ d, route = some d ∧ s.isStation d = false) :
    s.resolve route = .lost := by
  rcases h with rfl | ⟨d, rfl, hd⟩
  · rfl
  · exact if_pos hd

/-- The station a route resolves to: its own, or its fallback while it is ABSENT and the fallback is a PRESENT station. -/
def State.routed (s : State) (d : Nat) : Nat :=
  match (s.station d).fallback with
  | some f => if (s.drop d).present = false ∧ s.isStation f = true ∧ (s.drop f).present = true then f else d
  | none => d

theorem State.resolve_station {s : State} {d : Nat} (h : s.isStation d = true) : ∃ o, s.resolve (some d) = .to (s.routed d) o := by
  simp only [State.resolve, State.routed, State.usable, if_neg (show ¬s.isStation d = false by simp [h])]
  cases hp : (s.drop d).present with
  | true =>
    cases (s.station d).fallback with
    | none => exact ⟨none, rfl⟩
    | some f => exact ⟨none, by simp⟩
  | false =>
    cases (s.station d).fallback with
    | none => exact ⟨none, rfl⟩
    | some f =>
      by_cases hf : s.isStation f = true ∧ (s.drop f).present = true
      · exact ⟨some d, by simp [hf]⟩
      · exact ⟨none, by simpa using by simp [hf]⟩

/-- Settles O39: the answer is the resolved station with its quote. -/
theorem quoteFollowsRoute : Obligations.QuoteFollowsRoute := by
  intro src item s ha
  have answer {r : Reply} (h : quoteRequest item s = (s, r)) : Answers (.quote src item) s src .quote s r :=
    answers_of_owner rfl ha h
  refine ⟨fun hnone => answer ?_, fun i hi hplain => ⟨fun hlost => answer ?_, fun d hroute hd => ?_⟩⟩
  · unfold quoteRequest
    cases hi : s.item item with
    | none => rfl
    | some i => exact if_pos (hnone i hi)
  · simp [quoteRequest, hi, hplain, State.resolve_lost hlost]
  · obtain ⟨o, hto⟩ := State.resolve_station hd
    have hquote : quoteRequest item s = (s, okWith [u8 (s.routed d), u16 (s.quoteOf (s.routed d))]) := by
      simp [quoteRequest, hi, hplain, hroute, hto]
    exact ⟨s.quoteOf (s.routed d), answer hquote, s.quoteOf_isQuote (s.routed d)⟩

/-! ### FIRE (R88, R89) -/

theorem State.mem_heldTickets {s : State} {tab n : Nat} {k : Ticket} (hk : s.ticket n = some k) (ht : k.tab = tab)
    (hst : k.state = .held) : n ∈ s.heldTickets tab :=
  List.mem_map.mpr ⟨(n, k), List.mem_filter.mpr ⟨Table.find_some_mem hk, by simp [ht, hst]⟩, rfl⟩

theorem State.heldTickets_length (s : State) (tab : Nat) :
    (s.heldTickets tab).length = s.tickets.countP fun e => e.2.tab == tab && e.2.state == .held := by
  rw [State.heldTickets, List.length_map, List.countP_eq_length_filter]

theorem State.heldTickets_nil {s : State} {tab : Nat} (h : ∀ e ∈ s.tickets, e.2.tab = tab → e.2.state ≠ .held) :
    s.heldTickets tab = [] := by
  refine List.map_eq_nil_iff.mpr (List.filter_eq_nil_iff.mpr fun e he => ?_)
  simp only [Bool.and_eq_true, beq_iff_eq, not_and]
  exact h e he

theorem fireRequest_fires {tab : Nat} {t : Tab} {s : State} (ht : s.tab tab = some t) :
    fireRequest tab s = (s.fireAll (s.heldTickets tab),
      okWith [u8 (s.heldTickets tab).length, u16 ((s.fireAll (s.heldTickets tab)).sentQuote (s.heldTickets tab))]) := by
  simp [fireRequest, ht]

/-- Settles O33: the tickets fired are the HELD ones of the tab, and each is fired at the clock. -/
theorem fireReleasesHeldTickets : Obligations.FireReleasesHeldTickets := by
  intro src tab t s ha ht _
  refine ⟨s.fireAll (s.heldTickets tab), (s.fireAll (s.heldTickets tab)).sentQuote (s.heldTickets tab), ?_,
    State.fireAll_frame .., fun n k hk htab hst => ?_, fun hnone => ?_⟩
  · rw [← State.heldTickets_length]
    exact answers_of_owner rfl ha (fireRequest_fires ht)
  · obtain ⟨k', hk', hfired, hstate, hstation, hrefs, htab', -⟩ :=
      fireAll_self s _ n k hk (State.mem_heldTickets hk htab hst)
    exact ⟨k', hk', hfired, hstate, hstation, hrefs, htab'.trans htab⟩
  · rw [State.heldTickets_nil hnone]
    exact ⟨rfl, rfl⟩

end Sys2Proof.Machine

/-! PROOFS. The lanes: the poll and the item it carries (O9), the drops a pass skips (O10), a miss (O11) and what a good answer makes
of its drop. -/

namespace Sys2Proof.Machine

/-! ### The drop polled -/

section
variable {s : State} {l : Fin 4} (hpos : 1 ≤ (s.lane l).position ∧ (s.lane l).position ≤ 8)
include hpos

theorem State.isDrop_polled : isDrop (s.polled l) = true := isDrop_dropAt l hpos

theorem State.roleOf_polled : s.roleOf (s.polled l) = (s.lane l).role := by
  rw [State.roleOf, State.polled, laneOf_dropAt l hpos]

/-- The drop polled is a station exactly on a KITCHEN lane. -/
theorem State.isStation_polled : s.isStation (s.polled l) = true ↔ (s.lane l).role = .kitchen := by
  simp [State.isStation, State.isDrop_polled hpos, State.roleOf_polled hpos]

end

/-! ### A poll (R171 to R173) -/

theorem execPoll_ready {s : State} {l : Fin 4} (hm : s.mode = .operating) (hr : (s.lane l).phase = .ready) :
    exec (.poll l) s = .next (s.beginPoll l) := if_pos ⟨hm, hr⟩

theorem execPollEnd_sending {s : State} {l : Fin 4} {item : PollItem} {w : Nat} (hm : s.mode = .operating)
    (hp : (s.lane l).phase = .sending item w) : exec (.pollEnd l) s = .next (s.setLane l { s.lane l with phase := .awaiting w }) := by
  change execPollEnd l s = _
  simp only [execPollEnd, hm, hp]

/-- A drop that is polled where the lane stands is the next drop itself. -/
theorem State.seek_stands {s : State} {l : Fin 4} {pass pos : Nat} (h : pass = 0 ∨ (s.drop (dropAt l pos)).present = true) (fuel : Nat) :
    s.seek l (fuel + 1) pass pos = (pass, pos) := if_pos h

theorem State.beginPoll_stands {s : State} {l : Fin 4}
    (h : (s.lane l).passCount = 0 ∨ (s.drop (s.polled l)).present = true) :
    s.beginPoll l = (s.setDrop (s.polled l) ((s.drop (s.polled l)).afterPoll (s.lane l).role)).setLane l
      { s.lane l with phase := .sending ((s.drop (s.polled l)).pollItem (s.lane l).role) (s.lane l).window } := by
  simp only [State.beginPoll, State.seek_stands h 135, State.polled]

theorem State.beginPoll_lane (s : State) (l : Fin 4) :
    ((s.beginPoll l).lane l).passCount = (s.seek l 136 (s.lane l).passCount (s.lane l).position).1 ∧
      ((s.beginPoll l).lane l).position = (s.seek l 136 (s.lane l).passCount (s.lane l).position).2 := by
  simp [State.beginPoll]

/-- The item of a poll and the drop it leaves, place by place (R173). -/
theorem Drop.poll_spec (x : Drop) (role : Role) :
    match x.slot, role, x.notices, x.messages with
    | some r, _, _, _ => x.pollItem role = .result r ∧ x.afterPoll role = { x with slot := none }
    | none, .till, n :: rest, _ => x.pollItem role = .notice n ∧ x.afterPoll role = { x with notices := rest }
    | none, .kitchen, _, m :: rest => x.pollItem role = .message m ∧ x.afterPoll role = { x with messages := rest }
    | none, .till, [], _ => x.pollItem role = .empty ∧ x.afterPoll role = x
    | none, .kitchen, _, [] => x.pollItem role = .empty ∧ x.afterPoll role = x := by
  obtain ⟨present, misses, slot, notices, messages⟩ := x
  cases slot with
  | some r => exact ⟨rfl, rfl⟩
  | none =>
    cases role with
    | till => cases notices <;> exact ⟨rfl, rfl⟩
    | kitchen => cases messages <;> exact ⟨rfl, rfl⟩

theorem State.laneFrames_sending {s : State} {l : Fin 4} {item : PollItem} {w : Nat} (hm : s.mode = .operating)
    (hp : (s.lane l).phase = .sending item w) : s.laneFrames l = (item.frames (s.lane l).position).map sentFrame := by
  simp only [State.laneFrames, hm, hp]

theorem State.dirPin_sending {s : State} {l : Fin 4} {item : PollItem} {w : Nat} (hm : s.mode = .operating)
    (hp : (s.lane l).phase = .sending item w) : s.dirPin l = true := by
  simp only [State.dirPin, hm, hp]

/-- Each frame of a poll has the mark on its first character, the address, alone (R171). -/
theorem sentFrame_marked {a : Nat} {item : PollItem} {f : List SentChar} (h : f ∈ (item.frames a).map sentFrame) :
    ∃ first rest, f = first :: rest ∧ first.mark = true ∧ first.data = BitVec.ofNat 8 a ∧ ∀ c ∈ rest, c.mark = false := by
  obtain ⟨bytes, hbytes, rfl⟩ := List.mem_map.mp h
  obtain ⟨rest, rfl⟩ := (PollItem.frames_shape a item).2 bytes hbytes
  refine ⟨_, _, rfl, rfl, rfl, fun c hc => ?_⟩
  obtain ⟨b, -, rfl⟩ := List.mem_map.mp hc
  rfl

/-- Settles O9: the lane polls where it stands; the item's frames go out marked, and POLL-END opens the window. -/
theorem pollCarriesOneItem : Obligations.PollCarriesOneItem := by
  intro l s hm hr hpos hpolled
  have hbegin := State.beginPoll_stands hpolled
  have hframe := beginPoll_frame s l
  generalize s.beginPoll l = t at hbegin hframe
  have hexec : exec (.poll l) s = .next t := by rw [execPoll_ready hm hr, State.beginPoll_stands hpolled, hbegin]
  generalize hitem : (s.drop (s.polled l)).pollItem (s.lane l).role = item at hbegin
  have hlane : t.lane l = { s.lane l with phase := .sending item (s.lane l).window } := by rw [hbegin, State.lane_setLane_same]
  have hothers : ∀ m, m ≠ l → t.lane m = s.lane m := fun m hne => by
    rw [hbegin, State.lane_setLane_other _ _ _ _ hne, State.lane_setDrop]
  have hdrop : t.drop (s.polled l) = (s.drop (s.polled l)).afterPoll (s.lane l).role := by
    rw [hbegin, State.drop_setLane, State.drop_setDrop_same _ _ _ (State.isDrop_polled hpos)]
  have hmode : t.mode = .operating := (hframe.mode (by simp)).trans hm
  have hphase : (t.lane l).phase = .sending item (s.lane l).window := by rw [hlane]
  have hposition : (t.lane l).position = (s.lane l).position := by rw [hlane]
  have hframes : t.laneFrames l = (item.frames (s.lane l).position).map sentFrame := by
    rw [State.laneFrames_sending hmode hphase, hposition]
  refine ⟨t, item, hexec, hframe, hlane, hothers, ⟨State.dirPin_sending hmode hphase, ?_, ?_, fun f hf => ?_⟩, fun d hne => ?_, ?_,
    _, execPollEnd_sending hmode hphase, State.setLane_frame .., ?_, fun m hne => State.lane_setLane_other _ _ _ _ hne⟩
  · rw [hframes]
    exact List.map_eq_nil_iff.not.mpr (PollItem.frames_shape _ item).1
  · rw [hframes, List.map_map]
    exact (List.map_congr_left fun f _ => sentFrame_data f).trans (List.map_id _)
  · exact sentFrame_marked (hframes ▸ hf)
  · rw [hbegin, State.drop_setLane, State.drop_setDrop_other _ _ _ _ hne]
  · rw [hdrop, ← hitem]
    exact Drop.poll_spec (s.drop (s.polled l)) (s.lane l).role
  · rw [State.lane_setLane_same, hlane]

/-- Settles O10: the position after a poll is the one the seek finds. -/
theorem passSkipsAbsentDrops : Obligations.PassSkipsAbsentDrops := by
  intro l s t hm hr hrange hexec
  obtain ⟨-, hpass, hpos⟩ := (Lane.inRange_iff _).mp hrange
  have ht : s.beginPoll l = t := by
    rw [execPoll_ready hm hr] at hexec
    exact Host.Outcome.next.inj hexec
  subst ht
  obtain ⟨hcount, hposition⟩ := s.beginPoll_lane l
  have hseek := s.seek_spec l 136 (s.lane l).passCount (s.lane l).position hpass hpos.1 hpos.2 (by omega)
  simp only [State.polled, hcount, hposition]
  dsimp only at hseek
  obtain ⟨hwithin, -, hstands, hsame, hended, hzero, -, hnext⟩ := hseek
  exact ⟨hwithin, hstands, fun heq => ⟨(hsame heq).1, fun h0 => by rw [hzero h0], (hsame heq).2⟩, fun hne => ⟨hended hne, hnext hne⟩⟩

/-! ### A poll done (R172) -/

theorem State.pollDone_lane (s : State) {l : Fin 4} (hpos : (s.lane l).position ≤ 8) :
    (s.pollDone l).lane l =
      if (s.lane l).position = 8 then { s.lane l with position := 1, passCount := ((s.lane l).passCount + 1) % 16, phase := .ready }
      else { s.lane l with position := (s.lane l).position + 1, phase := .ready } := by
  rw [State.pollDone, State.lane_setLane_same]
  by_cases h : (s.lane l).position = 8
  · simp [nextAddress, h]
  · simp [nextAddress, h, show ¬8 ≤ (s.lane l).position by omega]

theorem State.pollDone_lane_other (s : State) {l m : Fin 4} (h : m ≠ l) : (s.pollDone l).lane m = s.lane m :=
  State.lane_setLane_other _ _ _ _ h

theorem State.pollDone_drop (s : State) (l : Fin 4) (d : Nat) : (s.pollDone l).drop d = s.drop d := State.drop_setLane ..

/-! ### A miss (R176) -/

theorem execAnswerMiss_awaiting {s : State} {l : Fin 4} {w : Nat} (hm : s.mode = .operating) (hw : (s.lane l).phase = .awaiting w) :
    exec (.answerMiss l) s = .next (s.miss l) := by
  change execAnswerMiss l s = _
  simp only [execAnswerMiss, hm, hw]

/-- A drop after a miss. -/
def Drop.missed (x : Drop) : Drop := { x with misses := min 3 (x.misses + 1), present := decide (x.misses < 2) }

/-- The state in which a miss has counted, its alert entered or not, before the lane moves on. -/
def State.missed (s : State) (l : Fin 4) : State :=
  let s1 := s.setDrop (s.polled l) (s.drop (s.polled l)).missed
  if (s.drop (s.polled l)).misses = 2 then s1.enterAlert .dropAbsent (s.polled l) else s1

/-- Of a drop whose presence agrees with its misses, the third miss is the one that makes it ABSENT. -/
theorem State.miss_eq {s : State} {l : Fin 4} (h : (s.drop (s.polled l)).presenceOk = true) :
    s.miss l = (s.missed l).pollDone l := by
  obtain ⟨hle, hpresent⟩ := (Drop.presenceOk_iff _).mp h
  have hdrop : ((s.drop (s.polled l)).present && decide ((s.drop (s.polled l)).misses + 1 < 3)) =
      decide ((s.drop (s.polled l)).misses < 2) := by
    rw [Bool.eq_iff_iff]
    simp only [Bool.and_eq_true, decide_eq_true_eq, hpresent]
    omega
  have halert : ((s.drop (s.polled l)).present && decide (3 ≤ (s.drop (s.polled l)).misses + 1)) = true ↔
      (s.drop (s.polled l)).misses = 2 := by
    simp only [Bool.and_eq_true, decide_eq_true_eq, hpresent]
    omega
  simp only [State.miss, State.missed, Drop.missed, hdrop, halert]

theorem State.missed_frame (s : State) (l : Fin 4) : SameBut [.drops, .alerts, .alertsFull] s (s.missed l) := by
  have hdrop := (s.setDrop_frame (s.polled l) (s.drop (s.polled l)).missed).mono (qs := [.drops, .alerts, .alertsFull]) (by simp)
  exact SameBut.ite (fun _ => hdrop.trans ((State.enterAlert_frame ..).mono (by simp))) fun _ => hdrop

theorem State.missed_drop (s : State) (l : Fin 4) (d : Nat) :
    (s.missed l).drop d = (s.setDrop (s.polled l) (s.drop (s.polled l)).missed).drop d := by
  unfold State.missed
  dsimp only
  split
  · exact State.drop_of ((State.enterAlert_frame ..).drops (by simp)) d
  · rfl

theorem State.missed_alerts (s : State) (l : Fin 4) :
    ((s.missed l).alerts, (s.missed l).alertsFull) =
      if (s.drop (s.polled l)).misses = 2 then
        ((s.enterAlert .dropAbsent (s.polled l)).alerts, (s.enterAlert .dropAbsent (s.polled l)).alertsFull)
      else (s.alerts, s.alertsFull) := by
  by_cases h : (s.drop (s.polled l)).misses = 2
  · obtain ⟨ha, hf⟩ := State.enterAlert_of (s := s) (t := s.setDrop (s.polled l) (s.drop (s.polled l)).missed) rfl rfl rfl
      .dropAbsent (s.polled l)
    simp only [State.missed, if_pos h, ha, hf]
  · simp only [State.missed, if_neg h, State.setDrop_alerts, State.setDrop_alertsFull]

/-- Settles O11: the miss counts at the drop polled, and the lane moves on. -/
theorem missCountsAndAbsents : Obligations.MissCountsAndAbsents := by
  intro l w s hm hw hpos hok
  have hd := State.isDrop_polled hpos
  have hmissed := s.missed_frame l
  have hlane (m : Fin 4) : (s.missed l).lane m = s.lane m := State.lane_of (hmissed.lanes (by simp)) m
  refine ⟨_, (execAnswerMiss_awaiting hm hw).trans (congrArg _ (State.miss_eq hok)), ?_, ?_, fun d hne => ?_, ?_, fun m hne => ?_, ?_⟩
  · exact hmissed.step (pollDone_frame _ l) (by simp) (by simp)
  · rw [State.pollDone_drop, State.missed_drop, State.drop_setDrop_same _ _ _ hd]
    rfl
  · rw [State.pollDone_drop, State.missed_drop, State.drop_setDrop_other _ _ _ _ hne]
  · exact s.missed_alerts l
  · rw [State.pollDone_lane_other _ hne, hlane]
  · rw [State.pollDone_lane _ (hlane l ▸ hpos.2), hlane]

/-! ### A drop heard (R175, R121) -/

/-- A drop after a good answer, its queue replaced when it is a station that returns. -/
def State.heardDrop (s : State) (l : Fin 4) : Drop :=
  { s.drop (s.polled l) with
    misses := 0, present := true,
    messages := if (s.drop (s.polled l)).present = false ∧ (s.lane l).role = .kitchen then s.redrawMsgs (s.polled l)
      else (s.drop (s.polled l)).messages }

theorem State.setDrop_setDrop (s : State) (d : Nat) (x y : Drop) : (s.setDrop d x).setDrop d y = s.setDrop d y := by
  unfold State.setDrop
  split
  · simp
  · rfl

theorem State.heard_eq {s : State} {l : Fin 4} (hpos : 1 ≤ (s.lane l).position ∧ (s.lane l).position ≤ 8) :
    s.heard l = (s.setDrop (s.polled l) (s.heardDrop l)).pollDone l := by
  by_cases h : (s.drop (s.polled l)).present = false ∧ (s.lane l).role = .kitchen
  · have hreturns : (!(s.drop (s.polled l)).present && s.isStation (s.polled l)) = true := by
      simp [h.1, (State.isStation_polled hpos).mpr h.2]
    simp only [State.heard, hreturns, if_true, State.redraw, State.setDrop_setDrop, State.heardDrop, if_pos h,
      State.drop_setDrop_same _ _ _ (State.isDrop_polled hpos)]
    rfl
  · have hstays : (!(s.drop (s.polled l)).present && s.isStation (s.polled l)) = false := by
      rw [Bool.eq_false_iff]
      simpa [State.isStation_polled hpos] using h
    simp only [State.heard, hstays, State.heardDrop, if_neg h, Bool.false_eq_true, if_false]

theorem State.heard_drop {s : State} {l : Fin 4} (hpos : 1 ≤ (s.lane l).position ∧ (s.lane l).position ≤ 8) (d : Nat) :
    (s.heard l).drop d = (s.setDrop (s.polled l) (s.heardDrop l)).drop d := by
  rw [State.heard_eq hpos, State.pollDone_drop]

theorem State.heard_lane {s : State} {l : Fin 4} (hpos : 1 ≤ (s.lane l).position ∧ (s.lane l).position ≤ 8) :
    (s.heard l).lane l =
      if (s.lane l).position = 8 then { s.lane l with position := 1, passCount := ((s.lane l).passCount + 1) % 16, phase := .ready }
      else { s.lane l with position := (s.lane l).position + 1, phase := .ready } := by
  rw [State.heard_eq hpos]
  exact State.pollDone_lane _ hpos.2

theorem State.heard_lane_other {s : State} {l : Fin 4} (hpos : 1 ≤ (s.lane l).position ∧ (s.lane l).position ≤ 8) {m : Fin 4}
    (h : m ≠ l) : (s.heard l).lane m = s.lane m := by
  rw [State.heard_eq hpos, State.pollDone_lane_other _ h, State.lane_setDrop]

end Sys2Proof.Machine

/-! PROOFS. The fields of a request's payload read back from the bytes that spell them (O5). -/

namespace Sys2Proof.Machine

/-! ### Numbers and their bytes -/

theorem foldl_unbe (bs : List Byte) (acc : Nat) :
    bs.foldl (fun acc b => acc * 256 + b.toNat) acc = acc * 256 ^ bs.length + unbe bs := by
  induction bs generalizing acc with
  | nil => simp [unbe]
  | cons b rest ih =>
    have hcons : unbe (b :: rest) = (0 * 256 + b.toNat) * 256 ^ rest.length + unbe rest := ih _
    rw [List.foldl_cons, ih, hcons, List.length_cons]
    ring

theorem unbe_cons (b : Byte) (bs : List Byte) : unbe (b :: bs) = b.toNat * 256 ^ bs.length + unbe bs :=
  (foldl_unbe bs (0 * 256 + b.toNat)).trans (by rw [Nat.zero_mul, Nat.zero_add])

/-- A number that fits a field reads back from its bytes (R191). -/
theorem unbe_be {w v : Nat} (h : v < 256 ^ w) : unbe (be w v) = v := by
  have hmod (w v : Nat) : unbe (be w v) = v % 256 ^ w := by
    induction w with
    | zero => simp [be, unbe, Nat.mod_one]
    | succ w ih =>
      rw [be, unbe_cons, be_length, ih, BitVec.toNat_ofNat, show 256 ^ (w + 1) = 256 ^ w * 2 ^ 8 from rfl, Nat.mod_mul,
        Nat.add_comm, Nat.mul_comm]
  rw [hmod, Nat.mod_eq_of_lt h]

/-! ### Fields of a payload -/

theorem fits_iff (w v : Nat) : fits w v = true ↔ v < 256 ^ w := decide_eq_true_iff

@[simp] theorem fieldAt_be_append {w v : Nat} (h : fits w v = true) (rest : List Byte) : fieldAt (be w v ++ rest) 0 w = v := by
  rw [fieldAt, List.drop_zero, List.take_left' (be_length w v), unbe_be ((fits_iff w v).mp h)]

@[simp] theorem fieldAt_be {w v : Nat} (h : fits w v = true) : fieldAt (be w v) 0 w = v := by
  simpa using fieldAt_be_append h []

/-- What stands past the first bytes of a payload. -/
@[simp] theorem drop_past {first : List Byte} {off : Nat} (h : first.length ≤ off) (rest : List Byte) :
    (first ++ rest).drop off = rest.drop (off - first.length) := by
  rw [List.drop_append, List.drop_eq_nil_of_le h, List.nil_append]

/-- A later field is read past the bytes of the first. -/
@[simp] theorem fieldAt_after {first : List Byte} {off : Nat} (h : first.length ≤ off) (rest : List Byte) (width : Nat) :
    fieldAt (first ++ rest) off width = fieldAt rest (off - first.length) width := by
  rw [fieldAt, drop_past h, fieldAt]

/-! ### The lists within payloads -/

theorem decodeMods_encodeMods {mods : List Nat} (h : ∀ m ∈ mods, fits 2 m = true) : decodeMods (encodeMods mods) = mods := by
  induction mods with
  | nil => rfl
  | cons m rest ih =>
    have hm := unbe_be ((fits_iff 2 m).mp (h m List.mem_cons_self))
    have hrest := ih fun x hx => h x (List.mem_cons_of_mem m hx)
    simp only [be] at hm
    simp only [encodeMods, List.flatMap_cons, be, List.cons_append, List.nil_append, decodeMods, hm] at hrest ⊢
    rw [hrest]

theorem splitEntryBits_lt (e : SplitEntry) : splitEntryBits e < 1048576 := by
  have hset := e.set.isLt
  simp only [splitEntryBits]
  omega

theorem splitEntryOf_bits {e : SplitEntry} (h : e.index < 128) : splitEntryOf (splitEntryBits e) = e := by
  obtain ⟨index, set⟩ := e
  have hset := set.isLt
  have h : index < 128 := h
  simp only [splitEntryOf, splitEntryBits, SplitEntry.mk.injEq]
  refine ⟨by omega, BitVec.eq_of_toNat_eq ?_⟩
  rw [BitVec.toNat_ofNat]
  omega

/-- The entries of a SPLIT's list read back, two to each five bytes (R191 section 11.3.1). -/
theorem decodeEntries_encodeEntries : ∀ {es : List SplitEntry}, (∀ e ∈ es, e.index < 128) → decodeEntries (encodeEntries es) = es
  | [], _ => rfl
  | [e], h => by
    have hbits := splitEntryBits_lt e
    have hbytes := unbe_be (w := 3) (v := splitEntryBits e * 16) (by omega)
    simp only [be] at hbytes
    simp only [encodeEntries, be, decodeEntries, hbytes, Nat.mul_div_cancel _ (show 0 < 16 by decide),
      splitEntryOf_bits (h e List.mem_cons_self)]
  | e :: f :: rest, h => by
    have he := splitEntryBits_lt e
    have hf := splitEntryBits_lt f
    have hbytes := unbe_be (w := 5) (v := splitEntryBits e * 1048576 + splitEntryBits f) (by omega)
    have hrest := decodeEntries_encodeEntries fun x hx => h x (List.mem_cons_of_mem e (List.mem_cons_of_mem f hx))
    have hhigh : (splitEntryBits e * 1048576 + splitEntryBits f) / 1048576 = splitEntryBits e := by omega
    have hlow : (splitEntryBits e * 1048576 + splitEntryBits f) % 1048576 = splitEntryBits f := by omega
    simp only [be] at hbytes
    simp only [encodeEntries, be, List.cons_append, List.nil_append, decodeEntries, hbytes, hhigh, hlow, hrest,
      splitEntryOf_bits (h e List.mem_cons_self), splitEntryOf_bits (h f (List.mem_cons_of_mem e List.mem_cons_self))]

theorem splitListLength_of_entries {es : List SplitEntry} (h : es.length ≤ 20) : splitListLength (encodeEntries es).length = true := by
  rw [Laws.encodeEntries_length]
  simp only [splitListLength, decide_eq_true_eq]
  rcases Nat.even_or_odd' es.length with ⟨n, hn | hn⟩
  · omega
  · omega

/-- The stock field reads back: FFFFh is kept for UNTRACKED (R191). -/
theorem stockOf_stockField {stock : Option Nat} (h : ∀ c, stock = some c → c < 65535) : stockOf (stockField stock) = stock := by
  cases stock with
  | none => rfl
  | some c => exact if_neg (h c rfl).ne

theorem stockField_fits {stock : Option Nat} (h : ∀ c, stock = some c → c < 65535) : fits 2 (stockField stock) = true := by
  rw [fits_iff]
  cases stock with
  | none => decide
  | some c => exact (h c rfl).trans (by decide)

/-- The flags of a SEND read back from its third byte. -/
theorem sendFlags_bits (hold rush : Bool) : fits 1 (hold.toNat + 2 * rush.toNat) = true ∧
    (hold.toNat + 2 * rush.toNat).testBit 0 = hold ∧ (hold.toNat + 2 * rush.toNat).testBit 1 = rush := by
  cases hold <;> cases rush <;> decide

theorem Vector.eq_four {α : Type} (v : Vector α 4) : ∃ a b c d, v = #v[a, b, c, d] := by
  obtain ⟨⟨l⟩, hl⟩ := v
  match l, hl with
  | [a, b, c, d], _ => exact ⟨a, b, c, d, rfl⟩

/-! ### The round trip -/

theorem withLength_eq {p : List Byte} {len : Nat} (h : p.length = len) (i : Instr) : withLength p len i = some i := if_pos h

/-- The request reads back from the payload that spells it. -/
def ReadsBack (i : Instr) : Prop :=
  WellFormed i = true → ∀ src k p, sourceOf i = some src → encodeRequest i = some (k, p) → decodeRequest src k p = some i

/-- Once its source, kind and payload are named, only the decoding is left. -/
theorem ReadsBack.intro {i : Instr} {src : Nat} {k : ReqKind} {p : List Byte} (hs : sourceOf i = some src)
    (he : encodeRequest i = some (k, p)) (hd : WellFormed i = true → decodeRequest src k p = some i) : ReadsBack i := by
  intro hw src' k' p' hs' he'
  obtain rfl := Option.some.inj (hs.symm.trans hs')
  obtain ⟨rfl, rfl⟩ := Prod.mk.inj (Option.some.inj (he.symm.trans he'))
  exact hd hw

theorem ReadsBack.event {i : Instr} (hs : sourceOf i = none) : ReadsBack i := by
  intro _ src k p hs' _
  rw [hs] at hs'
  exact absurd hs' (by simp)

/-- Every request reads back: its fields from their places, its lists by their own round trips. -/
theorem readsBack (i : Instr) : ReadsBack i := by
  cases i with
  | resetHold _ | resetRelease _ _ | settleEnd | secondsTick | holdExpiry _ _ | recallWindowExpiry _ | overdueRise _ | poll _
  | answerMiss _ | goodAnswer _ _ | chipSelectFall _ | chipSelectRise _ | pollEnd _ => exact .event rfl
  | openTab src kind label =>
    refine .intro rfl rfl fun hw => ?_
    simp only [WellFormed, Bool.and_eq_true, decide_eq_true_eq] at hw
    rw [decodeRequest, if_pos (by simp only [List.length_append, be_length]; omega)]
    simp [hw]
  | addLine src tab rev item qty mods =>
    refine .intro rfl rfl fun hw => ?_
    simp only [WellFormed, Bool.and_eq_true, decide_eq_true_eq, List.all_eq_true] at hw
    obtain ⟨⟨hfields, hmods⟩, hfit⟩ := hw
    rw [decodeRequest, if_pos (by simp only [List.length_append, be_length, Laws.encodeMods_length]; omega)]
    simp [hfields, decodeMods_encodeMods hfit]
  | setLabel src tab rev label =>
    refine .intro rfl rfl fun hw => ?_
    simp only [WellFormed, Bool.and_eq_true, decide_eq_true_eq] at hw
    rw [decodeRequest, if_pos (by simp only [List.length_append, be_length]; omega)]
    simp [hw]
  | send src tab hold rush =>
    obtain ⟨hflags, hhold, hrush⟩ := sendFlags_bits hold rush
    refine .intro rfl rfl fun hw => ?_
    simp only [WellFormed, Bool.and_eq_true] at hw
    rw [decodeRequest, withLength_eq (by simp)]
    simp [hw, hflags, hhold, hrush, -Nat.testBit_zero]
  | split src tab rev n entries =>
    refine .intro rfl rfl fun hw => ?_
    simp only [WellFormed, Bool.and_eq_true, decide_eq_true_eq, List.all_eq_true] at hw
    obtain ⟨⟨hfields, hlen⟩, hindex⟩ := hw
    have hlength : (be 2 tab ++ be 2 rev ++ be 1 n ++ encodeEntries entries).length = (encodeEntries entries).length + 5 := by
      simp only [List.length_append, be_length]
      omega
    rw [decodeRequest, hlength, if_pos ⟨Nat.le_add_left .., by rw [Nat.add_sub_cancel]; exact splitListLength_of_entries hlen⟩]
    simp [hfields, decodeEntries_encodeEntries hindex]
  | assign src tab rev index set =>
    have hset : fits 2 set.toNat = true := (fits_iff ..).mpr (set.isLt.trans (by decide))
    exact .intro rfl rfl fun hw => by simp_all [WellFormed, decodeRequest, withLength]
  | findTab src form start key =>
    refine .intro rfl rfl fun hw => ?_
    simp only [WellFormed, Bool.and_eq_true, decide_eq_true_eq] at hw
    obtain ⟨⟨⟨-, hform⟩, hstart⟩, hkey⟩ := hw
    have hread : fieldAt (be 1 form ++ be 2 start ++ key) 0 1 = form := by simp [hform]
    have hlength : (be 1 form ++ be 2 start ++ key).length = key.length + 3 := by
      simp only [List.length_append, be_length]
      omega
    rw [decodeRequest, hread, hlength, if_pos (by split at hkey <;> simp_all)]
    simp [hstart]
  | setStock src item stock =>
    refine .intro rfl rfl fun hw => ?_
    simp only [WellFormed, Bool.and_eq_true] at hw
    obtain ⟨hfields, hstock⟩ := hw
    have hbound : ∀ c, stock = some c → c < 65535 := fun c h => by simpa [h] using hstock
    simp [decodeRequest, withLength, hfields, stockField_fits hbound, stockOf_stockField hbound]
  | setConfig src hold settings =>
    obtain ⟨a, b, c, d, rfl⟩ := Vector.eq_four settings
    exact .intro rfl rfl fun hw => by simp_all [WellFormed, decodeRequest, withLength]
  -- Every other request is a row of fields of fixed widths.
  | _ => exact .intro rfl rfl fun hw => by simp_all [WellFormed, decodeRequest, withLength]

/-- No kind allows a payload above 64 bytes (R192). -/
theorem kindAllows_length {k : ReqKind} {p : List Byte} (h : kindAllows k p = true) : p.length ≤ 64 := by
  cases k with
  | split =>
    obtain ⟨n, hn, hlen⟩ := List.any_eq_true.mp h
    have hlen := eq_of_beq hlen
    have hn := List.mem_range.mp hn
    omega
  | findTab =>
    simp only [kindAllows] at h
    split at h
    · have := eq_of_beq h
      omega
    · have := of_decide_eq_true h
      omega
  | addLine =>
    simp only [kindAllows, List.contains_iff_mem, List.mem_cons, List.not_mem_nil, or_false] at h
    omega
  | _ =>
    simp only [kindAllows, decide_eq_true_eq, beq_iff_eq] at h
    omega

theorem ReqKind.ofCode_code (k : ReqKind) : ReqKind.ofCode k.code = some k := by
  cases k <;> rfl

/-- Settles O5: a payload that decodes has a length its kind allows, which is at most 64. -/
theorem requestFramesRoundTrip : Obligations.RequestFramesRoundTrip := by
  intro i src k p hw hs he
  have hback := readsBack i hw src k p hs he
  have hallowed := decodeRequest_isSome src k p
  rw [hback] at hallowed
  exact ⟨kindAllows_length hallowed.symm, ReqKind.ofCode_code k, hback⟩

end Sys2Proof.Machine

/-! PROOFS. What a frame does at its port: the controller link at the rise of chip select (O6, O13), an answer on a lane (O7, O8,
O12). -/

namespace Sys2Proof.Machine

/-! ### The content of a frame (R175, R192) -/

/-- A frame that spells a request is that request. -/
theorem takeFrame_request {i : Instr} {src : Nat} {k : ReqKind} {p : List Byte} (hw : WellFormed i = true) (hs : sourceOf i = some src)
    (he : encodeRequest i = some (k, p)) (empty : State → State) (s : State) : takeFrame src k.code p empty s = exec i s := by
  have hkind : ¬(k.code = 0 ∧ p = []) := fun h => (ReqKind.code_bounds k).2 h.1
  have hread : (ReqKind.ofCode k.code).bind (fun k => decodeRequest src k p) = some i := by
    rw [ReqKind.ofCode_code]
    exact readsBack i hw src k p hs he
  simp only [takeFrame, if_neg hkind, hread]
  exact takeRequest_exec i src hs s

theorem encode_length {i : Instr} {src : Nat} {k : ReqKind} {p : List Byte} (hw : WellFormed i = true) (hs : sourceOf i = some src)
    (he : encodeRequest i = some (k, p)) : p.length ≤ 64 :=
  (requestFramesRoundTrip i src k p hw hs he).1

/-! ### The rise of chip select (R183) -/

section
variable {s : State} {out : Option LinkAnswer} (ht : s.transfer = .active out)
include ht

theorem chipSelectRise_reads {bytes : List Byte} {kind : Nat} {p : List Byte} (h : readLinkFrame bytes = some (kind, p)) :
    exec (.chipSelectRise bytes) s =
      takeFrame 0 kind p (fun st => { st with answerSlot := some .empty }) { s with transfer := .none } := by
  change execChipSelectRise bytes s = _
  simp only [execChipSelectRise, ht, h]

/-- A transfer that fails a check of R183 leaves BAD-FRAME with the kind received. -/
theorem chipSelectRise_bad {bytes : List Byte} (h : readLinkFrame bytes = none) :
    exec (.chipSelectRise bytes) s = .next { s with
      transfer := .none, answerSlot := some (.result ⟨(bytes[1]?.getD 0#8).toNat, refuse .badFrame []⟩) } := by
  change execChipSelectRise bytes s = _
  simp only [execChipSelectRise, ht, h]
  rfl

end

/-- Settles O6. -/
theorem linkFrameRunsItsRequest : Obligations.LinkFrameRunsItsRequest := by
  intro i k p filler out s hw hs he ht
  rw [chipSelectRise_reads ht (readLinkFrame_frameBytes k.code (ReqKind.code_bounds k).1 p filler (encode_length hw hs he))]
  exact takeFrame_request hw hs he _ _

/-- The checks of a frame shifted in: its address, its length, its bytes all there, its check. -/
theorem readLinkFrame_eq_none {bytes : List Byte} (h : ∀ a k n rest, bytes = a :: k :: n :: rest →
    a ≠ 0#8 ∨ 64 < n.toNat ∨ bytes.length < n.toNat + 5 ∨ checkOk (bytes.take (n.toNat + 5)) = false) :
    readLinkFrame bytes = none := by
  match bytes, h with
  | [], _ | [_], _ | [_, _], _ => rfl
  | a :: k :: n :: rest, h =>
    refine if_neg fun ⟨ha, hn, hl, hc⟩ => ?_
    rcases h a k n rest rfl with h | h | h | h
    · exact h ha
    · omega
    · omega
    · rw [hc] at h
      exact absurd h (by decide)

theorem readLinkFrame_malformed {bytes : List Byte}
    (h : bytes.length < 5 ∨ bytes[0]? ≠ some 0#8 ∨ ∃ n, bytes[2]? = some n ∧ (64 < n.toNat ∨ bytes.length < n.toNat + 5)) :
    readLinkFrame bytes = none := by
  refine readLinkFrame_eq_none fun a k n rest hb => ?_
  subst hb
  rcases h with h | h | ⟨m, hm, h⟩
  · exact .inr (.inr (.inl (by omega)))
  · exact .inl fun ha => h (by rw [ha]; rfl)
  · obtain rfl : n = m := Option.some.inj hm
    rcases h with h | h
    · exact .inr (.inl h)
    · exact .inr (.inr (.inl h))

/-- The check of a frame is that of the bytes before its last two. -/
theorem checkOk_last (body : List Byte) (c1 c2 : Byte) : checkOk (body ++ [c1, c2]) = ([c1, c2] == be 2 (check body).toNat) := by
  simp [checkOk]

theorem readLinkFrame_badCheck {k n c1 c2 : Byte} {body : List Byte} (filler : List Byte) (hlen : body.length = n.toNat)
    (h : [c1, c2] ≠ be 2 (check (0#8 :: k :: n :: body)).toNat) :
    readLinkFrame (0#8 :: k :: n :: (body ++ c1 :: c2 :: filler)) = none := by
  refine readLinkFrame_eq_none fun a k' n' rest hb => .inr (.inr (.inr ?_))
  obtain ⟨-, -, rfl, -⟩ : 0#8 = a ∧ k = k' ∧ n = n' ∧ _ := by simpa using hb
  have htake : (0#8 :: k :: n :: (body ++ c1 :: c2 :: filler)).take (n.toNat + 5) = (0#8 :: k :: n :: body) ++ [c1, c2] := by
    rw [show 0#8 :: k :: n :: (body ++ c1 :: c2 :: filler) = ((0#8 :: k :: n :: body) ++ [c1, c2]) ++ filler by simp,
      List.take_left' (by simp [hlen])]
  rw [htake, checkOk_last]
  exact beq_eq_false_iff_ne.mpr h

/-! ### The fall of chip select (R182) -/

theorem chipSelectFall_takes {us : Nat} {s : State} (ht : s.transfer = .none) (hm : s.mode = .operating) (hus : 10 ≤ us) :
    exec (.chipSelectFall us) s = .next { s with transfer := .active s.answerSlot, answerSlot := none } := by
  change execChipSelectFall us s = _
  simp only [execChipSelectFall, ht]
  exact if_pos ⟨hm, hus⟩

theorem chipSelectFall_ignores {us : Nat} {s : State} (ht : s.transfer = .none) (h : s.mode ≠ .operating ∨ us < 10) :
    exec (.chipSelectFall us) s = .next { s with transfer := .ignored } := by
  change execChipSelectFall us s = _
  simp only [execChipSelectFall, ht]
  refine if_neg fun ⟨hm, hus⟩ => ?_
  rcases h with h | h
  · exact h hm
  · exact absurd hus (by simpa [Config.selectGapMicros] using h)

/-- Settles O13. -/
theorem chipSelectMovesFrames : Obligations.ChipSelectMovesFrames := by
  refine ⟨fun us n s ht => ⟨fun hm hus => ⟨chipSelectFall_takes ht hm hus, fun a ha => ?_⟩, fun h => ⟨chipSelectFall_ignores ht h,
    shiftOut_nil n⟩⟩, fun bytes filler out s => ⟨fun ht => ?_, fun ht h => chipSelectRise_bad ht (readLinkFrame_malformed h),
    fun k n c1 c2 body ht hlen h => ?_, fun kind p ht hk hp hbad => ?_, fun ht => ?_⟩⟩
  · rw [ha]
    rfl
  · rw [chipSelectRise_reads ht (readLinkFrame_frameBytes 0 (by decide) [] filler (by decide))]
    exact if_pos ⟨rfl, rfl⟩
  · exact chipSelectRise_bad ht (readLinkFrame_badCheck filler hlen h)
  · rw [chipSelectRise_reads ht (readLinkFrame_frameBytes kind hk p filler hp), takeFrame_badForm hbad]
    rfl
  · change execChipSelectRise bytes s = _
    simp only [execChipSelectRise, ht]

/-! ### An answer on a lane (R174, R175) -/

section
variable {s : State} {l : Fin 4} {w : Nat} (hm : s.mode = .operating) (hw : (s.lane l).phase = .awaiting w)
include hm hw

theorem goodAnswer_reads {cs : List LaneChar} {kind : Nat} {p : List Byte}
    (h : readAnswer w (s.lane l).rate.bps cs = some (kind, p)) :
    exec (.goodAnswer l cs) s = takeFrame (s.polled l) kind p id (s.heard l) := by
  change execGoodAnswer l cs s = _
  simp only [execGoodAnswer, hm, hw, h]

theorem goodAnswer_misses {cs : List LaneChar} (h : readAnswer w (s.lane l).rate.bps cs = none) :
    exec (.goodAnswer l cs) s = exec (.answerMiss l) s := by
  rw [execAnswerMiss_awaiting hm hw]
  change execGoodAnswer l cs s = _
  simp only [execGoodAnswer, hm, hw, h]

end

/-- Settles O7. -/
theorem laneFrameRunsItsRequest : Obligations.LaneFrameRunsItsRequest := by
  intro l a rest w s hm hw hmark hstop hdelay hrest
  refine ⟨fun i k p hwf hs he hdata => ?_, fun kind p hk hp hbad hdata => ?_⟩
  · rw [goodAnswer_reads hm hw (readAnswer_frameBytes w _ k.code (ReqKind.code_bounds k).1 p (encode_length hwf hs he) a rest hdata hmark hstop
      hdelay hrest)]
    exact takeFrame_request hwf hs he _ _
  · rw [goodAnswer_reads hm hw (readAnswer_frameBytes w _ kind hk p hp a rest hdata hmark hstop hdelay hrest), takeFrame_badForm hbad]

/-- Settles O12: an EMPTY frame carries no request, so the answer's whole effect is that the drop is heard. -/
theorem emptyAnswerMakesPresent : Obligations.EmptyAnswerMakesPresent := by
  intro l a rest w s hm hw hpos hdata hmark hstop hdelay hrest
  have hexec : exec (.goodAnswer l (a :: rest)) s = .next (s.heard l) := by
    rw [goodAnswer_reads hm hw (readAnswer_frameBytes w _ 0 (by decide) [] (by decide) a rest hdata hmark hstop hdelay hrest)]
    exact if_pos ⟨rfl, rfl⟩
  refine ⟨_, hexec, heard_frame s l, ?_, fun d hne => ?_, fun m hne => State.heard_lane_other hpos hne, State.heard_lane hpos⟩
  · rw [State.heard_drop hpos, State.drop_setDrop_same _ _ _ (State.isDrop_polled hpos)]
    rfl
  · rw [State.heard_drop hpos, State.drop_setDrop_other _ _ _ _ hne]

/-! ### Answers that are no good (R174) -/

/-- The checks of an answer: its first character, its length, its characters all there and each in form, its check. -/
theorem readAnswer_eq_none {w bps : Nat} {cs : List LaneChar} (h : ∀ a k n rest, cs = a :: k :: n :: rest →
    opensAnswer a w = false ∨ 64 < n.data.toNat ∨ cs.length < n.data.toNat + 5 ∨
      (∃ c ∈ (k :: n :: rest).take (n.data.toNat + 4), followsAnswer c bps = false) ∨
      checkOk ((cs.take (n.data.toNat + 5)).map LaneChar.data) = false) : readAnswer w bps cs = none := by
  match cs, h with
  | [], _ | [_], _ | [_, _], _ => rfl
  | a :: k :: n :: rest, h =>
    refine if_neg fun hgood => ?_
    simp only [Bool.and_eq_true, decide_eq_true_eq, List.all_eq_true] at hgood
    obtain ⟨⟨⟨⟨hopen, hn⟩, hl⟩, hfollow⟩, hc⟩ := hgood
    rcases h a k n rest rfl with h | h | h | ⟨c, hmem, h⟩ | h
    · simp [hopen] at h
    · omega
    · omega
    · have hgood : followsAnswer c bps = true := hfollow c hmem
      simp [hgood] at h
    · rw [hc] at h
      exact absurd h (by decide)

theorem opensAnswer_eq_false {a : LaneChar} {w : Nat}
    (h : a.mark = false ∨ a.data ≠ 0 ∨ a.stopHigh = false ∨ w * 1000000 < a.delayNs) : opensAnswer a w = false := by
  rw [Bool.eq_false_iff]
  simp only [opensAnswer, ne_eq, Bool.and_eq_true, decide_eq_true_eq]
  rintro ⟨⟨⟨hdelay, hmark⟩, hdata⟩, hstop⟩
  rcases h with h | h | h | h
  · simp [hmark] at h
  · exact h hdata
  · simp [hstop] at h
  · omega

theorem followsAnswer_eq_false {c : LaneChar} {bps : Nat}
    (h : c.mark = true ∨ c.stopHigh = false ∨ 22 * 1000000000 < c.delayNs * bps) : followsAnswer c bps = false := by
  rw [Bool.eq_false_iff]
  simp only [followsAnswer, ne_eq, Bool.and_eq_true, decide_eq_true_eq, Bool.not_eq_true']
  rintro ⟨⟨hdelay, hmark⟩, hstop⟩
  rcases h with h | h | h
  · simp [hmark] at h
  · simp [hstop] at h
  · omega

theorem badCheck_answer {a k n c1 c2 : LaneChar} {body : List LaneChar} (hlen : body.length = n.data.toNat)
    (h : [c1.data, c2.data] ≠ be 2 (check ((a :: k :: n :: body).map LaneChar.data)).toNat) :
    checkOk (((a :: k :: n :: (body ++ [c1, c2])).take (n.data.toNat + 5)).map LaneChar.data) = false := by
  have htake : (a :: k :: n :: (body ++ [c1, c2])).take (n.data.toNat + 5) = (a :: k :: n :: body) ++ [c1, c2] :=
    List.take_of_length_le (by simp [hlen])
  have hlast := checkOk_last ((a :: k :: n :: body).map LaneChar.data) c1.data c2.data
  rw [htake, List.map_append]
  exact hlast.trans (beq_eq_false_iff_ne.mpr h)

/-- Settles O8: each fault named fails one of the checks of an answer. -/
theorem badAnswerIsAMiss : Obligations.BadAnswerIsAMiss := by
  intro l cs w s hm hw hbad
  refine goodAnswer_misses hm hw (readAnswer_eq_none fun a k n rest hcs => ?_)
  subst hcs
  rcases hbad with h | ⟨a', rest', h, hfirst⟩ | ⟨a', k', n', rest', h, hlong⟩ | ⟨a', k', n', rest', h, c, hmem, hc⟩ |
    ⟨a', k', n', body, c1, c2, h, hlen, hcheck⟩
  · exact absurd h (by simp)
  · obtain ⟨rfl, -⟩ := List.cons.inj h
    exact .inl (opensAnswer_eq_false hfirst)
  · simp only [List.cons.injEq] at h
    obtain ⟨rfl, rfl, rfl, rfl⟩ := h
    exact .inr (.inl hlong)
  · simp only [List.cons.injEq] at h
    obtain ⟨rfl, rfl, rfl, rfl⟩ := h
    exact .inr (.inr (.inr (.inl ⟨c, hmem, followsAnswer_eq_false hc⟩)))
  · simp only [List.cons.injEq] at h
    obtain ⟨rfl, rfl, rfl, rfl⟩ := h
    exact .inr (.inr (.inr (.inr (badCheck_answer hlen hcheck))))

end Sys2Proof.Machine

/-! PROOFS. VOID-LINE (O26): the line, its units, and its ticket. -/

namespace Sys2Proof.Machine

/-! ### A void told to a ticket (R53, R98) -/

/-- A ticket with its references to a line marked. -/
def Ticket.marking (k : Ticket) (ix : Nat) : Ticket :=
  { k with refs := k.refs.map fun r => if r.index = ix then { r with voided := true } else r }

/-- No reference is left unmarked. -/
def Ticket.AllMarked (k : Ticket) : Prop := ∀ r ∈ k.refs, r.voided = true

theorem Ticket.unmarked_eq_zero (k : Ticket) : k.unmarked = 0 ↔ k.AllMarked := by
  rw [Ticket.unmarked, List.length_eq_zero_iff, List.filter_eq_nil_iff]
  simp [Ticket.AllMarked]

section
variable {s : State} {n : Nat} {k : Ticket} (ix : Nat) (hk : s.ticket n = some k)
include hk

theorem State.marked_ticket : (s.editTicket n fun k => k.marking ix).ticket n = some (k.marking ix) := by
  rw [State.ticket_editTicket_same, hk]
  rfl

/-- A ticket with no line left is killed. Its tab is not SETTLED, so no retirement follows. -/
theorem State.voidOnTicket_kills (htab : ∀ t, s.tabs.find k.tab = some t → t.state ≠ .settled) (h : (k.marking ix).AllMarked) :
    s.voidOnTicket n ix = (s.editTicket n fun k => k.marking ix).killTicket n := by
  have hnone : ((s.editTicket n fun k => k.marking ix).ticket n).any (fun k => k.unmarked == 0) = true := by
    rw [State.marked_ticket ix hk]
    exact beq_iff_eq.mpr ((Ticket.unmarked_eq_zero _).mpr h)
  have hvoid : s.voidOnTicket n ix = ((s.editTicket n fun k => k.marking ix).killTicket n).retireCheck k.tab := by
    simp only [State.voidOnTicket, hk]
    exact if_pos hnone
  rw [hvoid]
  refine State.retireCheck_kept _ _ fun t ht => htab t ?_
  rwa [(State.killTicket_frame _ n).tabs (by simp)] at ht

/-- With a line left, the ticket keeps its place, and its station may be told. -/
theorem State.voidOnTicket_updates (h : ¬(k.marking ix).AllMarked) :
    SameBut [.drops] (s.editTicket n fun k => k.marking ix) (s.voidOnTicket n ix) := by
  have hleft : ((s.editTicket n fun k => k.marking ix).ticket n).any (fun k => k.unmarked == 0) = false := by
    rw [State.marked_ticket ix hk]
    exact beq_eq_false_iff_ne.mpr ((Ticket.unmarked_eq_zero _).not.mpr h)
  have hvoid : s.voidOnTicket n ix =
      if ((s.editTicket n fun k => k.marking ix).screen k.station).contains n then
        (s.editTicket n fun k => k.marking ix).post k.station [.update n (k.position ix)]
      else s.editTicket n fun k => k.marking ix := by
    simp only [State.voidOnTicket, hk]
    exact if_neg (by rw [Bool.not_eq_true]; exact hleft)
  rw [hvoid]
  exact SameBut.ite (fun _ => State.post_frame ..) fun _ => SameBut.refl ..

theorem State.voidOnTicket_kept (htab : ∀ t, s.tabs.find k.tab = some t → t.state ≠ .settled) :
    SameBut [.tickets, .stations, .drops] s (s.voidOnTicket n ix) := by
  have hmark := s.editTicket_frame n fun k => k.marking ix
  by_cases h : (k.marking ix).AllMarked
  · rw [State.voidOnTicket_kills ix hk htab h]
    exact hmark.step (State.killTicket_frame _ n) (by simp) (by simp)
  · exact hmark.step (State.voidOnTicket_updates ix hk h) (by simp) (by simp)

/-- The ticket after a void: its marks, and KILLED when every reference is marked. -/
theorem State.voidOnTicket_ticket (htab : ∀ t, s.tabs.find k.tab = some t → t.state ≠ .settled) :
    ∃ k', (s.voidOnTicket n ix).ticket n = some k' ∧ k'.refs = (k.marking ix).refs ∧
      (k'.AllMarked → k'.state = .killed) ∧ (¬k'.AllMarked → k'.state = k.state) := by
  by_cases h : (k.marking ix).AllMarked
  · obtain ⟨hkilled, -⟩ := State.killTicket_killed _ n _ (State.marked_ticket ix hk)
    rw [State.voidOnTicket_kills ix hk htab h]
    exact ⟨_, hkilled, rfl, fun _ => rfl, fun hnot => absurd h hnot⟩
  · refine ⟨k.marking ix, ?_, rfl, fun hall => absurd hall h, fun _ => rfl⟩
    rw [State.ticket_of ((State.voidOnTicket_updates ix hk h).tickets (by simp)), State.marked_ticket ix hk]

end

theorem State.voidOnTicket_gone {s : State} {n : Nat} (ix : Nat) (h : s.ticket n = none) : s.voidOnTicket n ix = s := by
  simp only [State.voidOnTicket, h]

/-- A void told to the ticket a line names, if it names one. -/
def State.tellVoid (s : State) (ref : Option Nat) (ix : Nat) : State :=
  match ref with
  | some n => s.voidOnTicket n ix
  | none => s

theorem State.tellVoid_frame {s : State} {ref : Option Nat} (ix : Nat)
    (h : ∀ n k, ref = some n → s.ticket n = some k → ∀ t, s.tabs.find k.tab = some t → t.state ≠ .settled) :
    SameBut [.tickets, .stations, .drops] s (s.tellVoid ref ix) := by
  cases ref with
  | none => exact SameBut.refl ..
  | some n =>
    cases hk : s.ticket n with
    | none =>
      change SameBut _ s (s.voidOnTicket n ix)
      rw [State.voidOnTicket_gone ix hk]
      exact SameBut.refl ..
    | some k => exact State.voidOnTicket_kept ix hk (h n k rfl hk)

/-! ### VOID-LINE (R51 to R53) -/

theorem State.voidRestores_iff (s : State) (l : Line) :
    s.voidRestores l = true ↔ l.stage = .none ∨ l.stage = .unsent ∨
      (l.stage = .sent ∧ ∃ n k, l.ticket = some n ∧ s.ticket n = some k ∧ (k.state = .held ∨ k.state = .waiting ∨ k.state = .live)) := by
  cases hst : l.stage with
  | none | unsent | ready => simp [State.voidRestores, hst]
  | sent =>
    cases hn : l.ticket with
    | none => simp [State.voidRestores, hst, hn]
    | some n =>
      cases hk : s.ticket n with
      | none => simp [State.voidRestores, hst, hn, hk]
      | some k => simp [State.voidRestores, hst, hn, hk, or_assoc]

/-- A tab with a line voided: the totals afresh and the revision raised. -/
def State.withVoid (s : State) (t : Tab) (ix : Nat) : Tab :=
  let lines := t.lines.map fun m => if m.index = ix then { m with voided := true } else m
  { t with lines := lines, totals := totalsOf s.taxRate t.serviceRate lines, revision := (t.revision + 1) % 65536 }

theorem State.withVoid_eq (s : State) (t : Tab) (ix : Nat) :
    (s.withTotals (t.editLines (· == ix) fun l => { l with voided := true })).edited = s.withVoid t ix := by
  simp [State.withTotals, Tab.edited, Tab.editLines, nextRevision, State.withVoid]

/-- The state with the line's units given back, or not, and the tab stored. -/
def State.voiding (s : State) (tab ix : Nat) (t : Tab) (l : Line) : State :=
  (if s.voidRestores l then s.restore l else s).setTab tab (s.withVoid t ix)

theorem voidLine_voids {tab rev ix : Nat} {t : Tab} {l : Line} {s : State} (ht : s.tab tab = some t) (ho : t.state = .opened)
    (hr : t.revision = rev) (hl : t.activeLine ix = some l) :
    voidLine tab rev ix s = ((s.voiding tab ix t l).tellVoid l.ticket ix,
      ⟨.ok, lowMark (s.voidRestores l), [u16 (s.withVoid t ix).revision, u32 (s.withVoid t ix).totals.total]⟩) := by
  simp only [voidLine, State.editChecks_ok ht (onlyOpen_opened ho) hr, voidLineOf, hl, State.withVoid_eq]
  rfl

theorem State.voiding_frame (s : State) (tab ix : Nat) (t : Tab) (l : Line) : SameBut [.tabs, .items] s (s.voiding tab ix t l) :=
  (SameBut.ite (ps := [.items]) (fun _ => State.restore_frame s l) fun _ => SameBut.refl ..).step (State.setTab_frame ..) (by simp)
    (by simp)

theorem State.voiding_tabs (s : State) (tab ix : Nat) (t : Tab) (l : Line) :
    (s.voiding tab ix t l).tabs = s.tabs.put tab (s.withVoid t ix) := by
  have h : (if s.voidRestores l then s.restore l else s).tabs = s.tabs := by
    split
    · exact (State.restore_frame s l).tabs (by simp)
    · rfl
  rw [State.voiding, State.setTab, h]

theorem lowMark_spec (b : Bool) : lowMark b ≤ 1 ∧ (lowMark b = 1 ↔ b = true) := by
  cases b <;> decide

/-- Settles O26. -/
theorem voidLineVoidsAndRestores : Obligations.VoidLineVoidsAndRestores := by
  intro src tab rev ix t l s ha ht ho hr hl hown lines totals back
  subst hr
  have hback : s.voidRestores l = true ↔ back := s.voidRestores_iff l
  have hvoiding := s.voiding_frame tab ix t l
  have htabs (n : Nat) : (s.voiding tab ix t l).tab n = (s.setTab tab (s.withVoid t ix)).tab n :=
    State.tab_of (s := s.setTab tab (s.withVoid t ix)) (s.voiding_tabs tab ix t l) n
  obtain ⟨-, hstored, hothers⟩ := State.setTab_effect ht (s.withVoid t ix)
  have hopen : ∀ n k, l.ticket = some n → (s.voiding tab ix t l).ticket n = some k →
      ∀ u, (s.voiding tab ix t l).tabs.find k.tab = some u → u.state ≠ .settled := by
    intro n k hn hk u hu
    rw [State.ticket_of (hvoiding.tickets (by simp))] at hk
    have hfound : (s.setTab tab (s.withVoid t ix)).tabs.find tab = some (s.withVoid t ix) := (State.tab_some hstored).2
    rw [hown n k hn hk, s.voiding_tabs] at hu
    rw [← Option.some.inj (hfound.symm.trans hu)]
    exact ho ▸ (by decide)
  have htold := State.tellVoid_frame ix hopen
  have hitem (x : Nat) : ((s.voiding tab ix t l).tellVoid l.ticket ix).item x = (if s.voidRestores l then s.restore l else s).item x := by
    rw [State.item_of (htold.items (by simp))]
    exact State.item_setTab ..
  refine ⟨_, _, answers_of_owner rfl ha (voidLine_voids ht ho rfl hl), (lowMark_spec _).1, (lowMark_spec _).2.trans hback,
    hvoiding.step htold (by simp) (by simp), ?_, fun n hne => ?_, fun hnot => ?_, fun hyes x i hx => ?_, fun n k hn hk => ?_⟩
  · rw [State.tab_of (htold.tabs (by simp)), htabs, hstored]
    rfl
  · rw [State.tab_of (htold.tabs (by simp)), htabs, hothers n hne]
  · rw [htold.items (by simp), State.voiding, if_neg (hback.not.mpr hnot)]
    rfl
  · rw [hitem, if_pos (hback.mpr hyes), State.restore_item, hx]
    by_cases hin : x ∈ l.item :: l.mods
    · rw [if_pos hin, if_neg (List.count_eq_zero.not.mpr (not_not.mpr hin))]
      rfl
    · rw [if_neg hin, if_pos (List.count_eq_zero.mpr hin)]
  · rw [hn] at hopen ⊢
    have hk1 : (s.voiding tab ix t l).ticket n = some k := by rw [State.ticket_of (hvoiding.tickets (by simp)), hk]
    obtain ⟨k', hk', hrefs, hall, hsome⟩ := State.voidOnTicket_ticket ix hk1 (hopen n k rfl hk1)
    refine ⟨k', hk', hrefs, ?_⟩
    split
    · rename_i h
      exact hall h
    · rename_i h
      exact hsome h

end Sys2Proof.Machine

/-! PROOFS. MERGE-TABS (O29): the lines, the tickets and their references, and the tab that goes. -/

namespace Sys2Proof.Machine

/-! ### Tickets of a merge (R59) -/

/-- A record found after each record was kept, changed or dropped. -/
theorem Table.find_filterMap {α β : Type} {m : Table α} (h : (m.map Prod.fst).Nodup) (g : α → Option β) (n : Nat) :
    Table.find (m.filterMap fun e => (g e.2).map (Prod.mk e.1)) n = (m.find n).bind g := by
  induction m with
  | nil => rfl
  | cons e rest ih =>
    obtain ⟨hout, hrest⟩ := List.nodup_cons.mp h
    have ih := ih hrest
    rw [Table.find_cons]
    by_cases hn : e.1 = n
    · have hnone : Table.find rest n = none := Table.find_eq_none.mpr (hn ▸ hout)
      rw [hnone] at ih
      rw [if_pos hn]
      cases hg : g e.2 with
      | none => simpa [hg] using ih
      | some y => simp [hg, Table.find_cons, hn]
    · rw [if_neg hn]
      cases hg : g e.2 with
      | none => simpa [hg] using ih
      | some y => simpa [hg, Table.find_cons, hn] using ih

/-- What a merge makes of a ticket: another tab's stays, one of A's goes with its references, or is freed. -/
def mergedTicket (a : Tab) (tabA tabB first : Nat) (k : Ticket) : Option Ticket :=
  if k.tab ≠ tabA then some k else if namesMoved a k = true then some (mergeTicket a tabB first k) else none

theorem mergedTickets_eq {a : Tab} {tabA tabB : Nat} (first : Nat) (hne : tabA ≠ tabB) (m : Table Ticket) :
    ((m.filter fun e => !(e.2.tab == tabA && !namesMoved a e.2)).map fun e =>
        if e.2.tab = tabA then (e.1, mergeTicket a tabB first e.2) else e).filter (fun e => e.2.tab != tabA) =
      m.filterMap fun e => (mergedTicket a tabA tabB first e.2).map (Prod.mk e.1) := by
  induction m with
  | nil => rfl
  | cons e rest ih =>
    by_cases htab : e.2.tab = tabA
    · cases hmoved : namesMoved a e.2 with
      | false => simpa [mergedTicket, htab, hmoved] using ih
      | true =>
        have hstays : ((mergeTicket a tabB first e.2).tab != tabA) = true := bne_iff_ne.mpr hne.symm
        simpa [mergedTicket, htab, hmoved, hstays] using ih
    · simpa [mergedTicket, htab] using ih

/-- The index of a moved line (R59). -/
theorem movedIndex_eq (a : Tab) (first ix : Nat) :
    movedIndex a first ix = if ix ∈ (activeLines a.lines).map Line.index then
      some (first + ((activeLines a.lines).map Line.index).idxOf ix) else none := by
  simp [movedIndex]

theorem namesMoved_iff (a : Tab) (k : Ticket) :
    namesMoved a k = true ↔ ∃ r ∈ k.refs, r.index ∈ (activeLines a.lines).map Line.index := by
  simp only [namesMoved, List.any_eq_true]
  refine exists_congr fun r => and_congr_right fun _ => ?_
  by_cases h : r.index ∈ (activeLines a.lines).map Line.index
  · rw [movedIndex_eq, if_pos h]
    exact iff_of_true rfl h
  · rw [movedIndex_eq, if_neg h]
    exact iff_of_false Bool.false_ne_true h

theorem mergeTicket_eq (a : Tab) (tabB first : Nat) (k : Ticket) :
    mergeTicket a tabB first k = { k with
      tab := tabB
      refs := k.refs.map fun r =>
        if r.index ∈ (activeLines a.lines).map Line.index then
          { r with index := first + ((activeLines a.lines).map Line.index).idxOf r.index }
        else ⟨0, true⟩ } := by
  have hrefs : (mergeTicket a tabB first k).refs = k.refs.map fun r =>
      if r.index ∈ (activeLines a.lines).map Line.index then
        { r with index := first + ((activeLines a.lines).map Line.index).idxOf r.index }
      else ⟨0, true⟩ := by
    refine List.map_congr_left fun r _ => ?_
    by_cases h : r.index ∈ (activeLines a.lines).map Line.index
    · rw [movedIndex_eq, if_pos h, if_pos h]
    · rw [movedIndex_eq, if_neg h, if_neg h]
  rw [← hrefs]
  rfl

/-! ### MERGE-TABS (R58 to R60) -/

section
variable {tabA tabB : Nat} {a b : Tab} {s : State}

theorem mergeInto_ticket (hne : tabA ≠ tabB) (hk : (s.tickets.map Prod.fst).Nodup) (n : Nat) :
    (mergeInto tabA tabB a b s).ticket n = (s.ticket n).bind (mergedTicket a tabA tabB b.nextIndex) := by
  have htickets : (mergeInto tabA tabB a b s).tickets =
      s.tickets.filterMap fun e => (mergedTicket a tabA tabB b.nextIndex e.2).map (Prod.mk e.1) :=
    (mergedTickets_eq (a := a) b.nextIndex hne s.tickets)
  rw [State.ticket, htickets]
  exact Table.find_filterMap hk _ n

theorem mergeInto_tabs : (mergeInto tabA tabB a b s).tabs = (s.tabs.put tabB (s.mergedTab a b)).erase tabA := rfl

theorem mergeInto_tab (n : Nat) :
    (mergeInto tabA tabB a b s).tab n = if n = tabA then none else (s.setTab tabB (s.mergedTab a b)).tab n := by
  by_cases hn : n = tabA
  · subst hn
    simp [State.tab, mergeInto_tabs]
  · simp [State.tab, mergeInto_tabs, hn, State.setTab]

theorem mergeTabs_merges (hne : tabA ≠ tabB) (ha : s.tab tabA = some a) (hb : s.tab tabB = some b) (hoa : a.state = .opened)
    (hob : b.state = .opened) (hmoved : activeLines a.lines ≠ []) (hroom : b.nextIndex + (activeLines a.lines).length ≤ 65)
    (hgoods : b.totals.goods + a.totals.goods ≤ 9999999) :
    mergeTabs tabA a.revision tabB b.revision s = (mergeInto tabA tabB a b s,
      okWith [u16 (s.mergedTab a b).revision, u32 (s.mergedTab a b).totals.total, u8 (activeLines a.lines).length, u8 b.nextIndex,
        u16 a.edited.revision]) := by
  have hlimit : ¬(65 < b.nextIndex + (activeLines a.lines).length ∨ Config.maxGoods < b.totals.goods + a.totals.goods) := by
    simp only [Config.maxGoods]
    omega
  have hfirst : firstNewIndex a b s = (s, b.nextIndex) := if_neg hmoved
  simp [mergeTabs, ha, hb, hne, hoa, hob, hlimit, hfirst]

end

/-- Settles O29. -/
theorem mergeMovesLinesAndTickets : Obligations.MergeMovesLinesAndTickets := by
  intro src tabA revA tabB revB a b s hadm hne ha hb hoa hob hra hrb moved hmoved hroom hgoods hk lines totals
  subst hra hrb
  have htab := mergeInto_tab (tabA := tabA) (tabB := tabB) (a := a) (b := b) (s := s)
  have hticket := mergeInto_ticket (a := a) (b := b) hne hk.1
  obtain ⟨-, hstored, hothers⟩ := State.setTab_effect hb (s.mergedTab a b)
  refine ⟨_, answers_of_owner rfl hadm (mergeTabs_merges hne ha hb hoa hob hmoved hroom hgoods), mergeInto_frame tabA tabB a b s, ?_, ?_,
    fun n hA hB => ?_, fun n k hn hother => ?_, fun n k hn hown hnone => ?_, fun n k hn hown hsome => ?_⟩
  · rw [htab, if_pos rfl]
  · rw [htab, if_neg hne.symm, hstored]
    rfl
  · rw [htab, if_neg hA, hothers n hB]
  · rw [hticket, hn]
    exact if_pos hother
  · have hnames : ¬namesMoved a k = true := (namesMoved_iff a k).not.mpr fun ⟨r, hr, hin⟩ => hnone r hr hin
    rw [hticket, hn, Option.bind_some, mergedTicket, if_neg (not_not.mpr hown), if_neg hnames]
  · rw [hticket, hn, Option.bind_some, mergedTicket, if_neg (not_not.mpr hown), if_pos ((namesMoved_iff a k).mpr hsome), mergeTicket_eq]
    rfl

end Sys2Proof.Machine

/-! PROOFS. A ticket's end: KILL-TICKET (O34) and BUMP (O35). -/

namespace Sys2Proof.Machine

/-! ### The lines a ticket names -/

/-- A tab with the lines changed that a ticket names without a voided mark. -/
def Tab.mapNamed (t : Tab) (k : Ticket) (f : Line → Line) : Tab :=
  { t with lines := t.lines.map fun l => if (∃ r ∈ k.refs, r.index = l.index ∧ r.voided = false) then f l else l }

theorem Ticket.names_iff (k : Ticket) (ix : Nat) : k.names ix = true ↔ ∃ r ∈ k.refs, r.index = ix ∧ r.voided = false := by
  simp [Ticket.names]

theorem Tab.editLines_names (t : Tab) (k : Ticket) (f : Line → Line) : t.editLines k.names f = t.mapNamed k f := by
  simp only [Tab.editLines, Tab.mapNamed, Ticket.names_iff]

theorem State.editTab_find (s : State) (n m : Nat) (f : Tab → Tab) :
    (s.editTab n f).tabs.find m = if m = n then (s.tabs.find m).map f else s.tabs.find m := Table.find_edit s.tabs n m f

theorem State.editTab_tab (s : State) (n m : Nat) (f : Tab → Tab) :
    (s.editTab n f).tab m = if m = n then (s.tab m).map f else s.tab m := by
  simp only [State.tab, State.editTab_find]
  split
  · rfl
  · simp

/-! ### Restores (R30) -/

/-- What is given back depends on the menu table alone. -/
theorem State.giveStock_items {s t : State} (h : t.items = s.items) (x amount : Nat) :
    (t.giveStock x amount).items = (s.giveStock x amount).items := by
  simp only [State.giveStock, State.item_of h]
  split
  · exact h
  · simp only [State.setItem, h]

theorem State.restore_items {s t : State} (h : t.items = s.items) (l : Line) : (t.restore l).items = (s.restore l).items := by
  unfold State.restore
  generalize distinct (l.item :: l.mods) = xs
  induction xs generalizing s t with
  | nil => exact h
  | cons x rest ih => exact ih (State.giveStock_items h x _)

theorem State.restoreAll_items {s t : State} (h : t.items = s.items) (ls : List Line) :
    (ls.foldl State.restore t).items = (ls.foldl State.restore s).items := by
  induction ls generalizing s t with
  | nil => exact h
  | cons l rest ih => exact ih (State.restore_items h l)

theorem State.ticketLines_of {s t : State} (h : t.tabs = s.tabs) (k : Ticket) : t.ticketLines k = s.ticketLines k := by
  simp only [State.ticketLines, h]

/-! ### KILL-TICKET (R96, R97) -/

/-- The state after the kill, the restore and the lines' return. -/
def State.killedBack (s : State) (n : Nat) (k : Ticket) : State := ((s.killTicket n).restoreTicket k).returnLines k

theorem killRequest_kills {n : Nat} {k : Ticket} {s : State} (hk : s.ticket n = some k)
    (hst : k.state = .held ∨ k.state = .waiting ∨ k.state = .live) :
    killRequest n s = ((s.killedBack n k).retireCheck k.tab, okWith [u16 n, u16 k.tab, u8 (s.ticketLines k).length]) := by
  have hworks : ¬(k.state = .bumped ∨ k.state = .killed) := by
    rcases hst with h | h | h <;> simp [h]
  simp only [killRequest, hk, if_neg hworks]
  rfl

section
variable (s : State) (n : Nat) (k : Ticket)

theorem State.killedBack_items : (s.killedBack n k).items = (s.restoreTicket k).items := by
  have hkill := State.killTicket_frame s n
  have hlines : (s.killTicket n).ticketLines k = s.ticketLines k := State.ticketLines_of (hkill.tabs (by simp)) k
  change ((s.killTicket n).restoreTicket k).items = _
  rw [State.restoreTicket, hlines, State.restoreAll_items (hkill.items (by simp))]
  rfl

theorem State.killedBack_find (m : Nat) :
    (s.killedBack n k).tabs.find m = if m = k.tab then
      (s.tabs.find m).map fun t => t.mapNamed k fun l => { l with stage := .unsent, ticket := none }
    else s.tabs.find m := by
  have htabs : ((s.killTicket n).restoreTicket k).tabs = s.tabs :=
    ((State.restoreTicket_frame _ k).tabs (by simp)).trans ((State.killTicket_frame s n).tabs (by simp))
  rw [State.killedBack, State.returnLines, State.editTab_find, htabs]
  simp only [Tab.editLines_names]

theorem State.killedBack_kill : SameBut [.tabs, .items] (s.killTicket n) (s.killedBack n k) :=
  (State.restoreTicket_frame _ k).step (State.editTab_frame ..) (by simp) (by simp)

end

/-- Settles O34. -/
theorem killTicketReturnsLines : Obligations.KillTicketReturnsLines := by
  intro n k s ha hk hst
  have hback := s.killedBack_kill n k
  obtain ⟨hkilled, hgone⟩ := State.killTicket_killed s n k hk
  refine ⟨s.killedBack n k, answers_of_owner rfl ha (killRequest_kills hk hst), ?_, s.killedBack_items n k, fun t ht => ?_,
    fun m hne => ?_, ⟨{ k with front := false, state := .killed }, ?_, rfl, rfl, rfl, rfl⟩, fun hd => ?_⟩
  · exact (State.killTicket_frame s n).step hback (by simp) (by simp)
  · rw [s.killedBack_find, if_pos rfl, ht]
    rfl
  · rw [s.killedBack_find, if_neg hne]
  · rw [State.ticket_of (hback.tickets (by simp)), hkilled]
  · rw [State.station_of (hback.stations (by simp))]
    exact hgone hd

/-! ### Admission and the screen comparison together (R93, R94) -/

section
variable (s : State) (d : Nat) (before : List Nat) (b : Option Nat)

/-- LIVE filled up and the screen compared. -/
def State.refilled : State := (s.fillLive d).syncScreen d before b

theorem State.refilled_frame : SameBut [.stations, .tickets, .drops] s (s.refilled d before b) :=
  (State.fillLive_frame s d).step (State.syncScreen_frame ..) (by simp) (by simp)

theorem State.refilled_station (e : Nat) : (s.refilled d before b).station e = (s.fillLive d).station e :=
  State.station_of ((State.syncScreen_frame ..).stations (by simp)) e

theorem State.refilled_drop {e : Nat} (h : e ≠ d) : (s.refilled d before b).drop e = s.drop e := by
  rw [State.refilled, State.syncScreen_other _ _ _ _ e h, State.drop_of ((State.fillLive_frame s d).drops (by simp))]

/-- A ticket outside WAITING that stood on the screen before is not touched. -/
theorem State.refilled_ticket {m : Nat} (hw : m ∉ (s.station d).waiting) (hb : m ∈ before) :
    (s.refilled d before b).ticket m = s.ticket m := by
  rw [State.refilled, State.syncScreen_ticket, State.fillLive_ticket_out s d m hw]
  simp [hb]

end

/-! ### BUMP (R109 to R111) -/

theorem State.stageLines_tab (s : State) (k : Ticket) (st : Stage) (m : Nat) :
    (s.stageLines k st).tab m =
      if m = k.tab then (s.tab m).map fun t => t.mapNamed k fun l => { l with stage := st } else s.tab m := by
  rw [State.stageLines, State.editTab_tab]
  simp only [Tab.editLines_names]

theorem State.openingTill_of_tab {s : State} {n : Nat} {t : Tab} (h : s.tab n = some t) : s.openingTill n = t.openingTill := by
  simp [State.openingTill, (State.tab_some h).2]

section
variable (d n : Nat) (k : Ticket) (s : State)

/-- The ticket out of its lists and BUMPED, its lines READY. -/
def State.bumped : State := ((s.takeOut n d).editTicket n fun k => { k with state := .bumped }).stageLines k .ready

/-- The bump's record on its station: the sample taken in and the reference set. -/
def Station.bumpedAt (st : Station) (n sample expiry : Nat) : Station :=
  { st with
    live := st.live.filter (· != n)
    waiting := st.waiting.filter (· != n)
    p16 := smoothed st.p16 sample
    lastBumped := some ⟨n, expiry⟩ }

/-- The bump up to its notice. -/
def State.bumping : State :=
  let st := (s.bumped d n k).station d
  (s.bumped d n k).setStation d
    { st with p16 := smoothed st.p16 (s.sampleOf k), lastBumped := some ⟨n, clockAfter s.clock Config.recallWindow⟩ }

theorem bumpTicket_eq : bumpTicket d n k s = State.refilled
    ((s.bumping d n k).notify ((s.bumping d n k).openingTill k.tab) (.ready k.tab n d)) d (s.screen d) (some n) := rfl

theorem State.bumping_frame : SameBut [.tabs, .tickets, .stations] s (s.bumping d n k) :=
  (((State.takeOut_frame s n d).step (State.editTicket_frame _ n _) (List.Subset.refl _) (by simp)).step (State.editTab_frame ..)
    (rs := [.tabs, .tickets, .stations]) (by simp) (by simp)).step (State.setStation_frame ..) (by simp) (by simp)

theorem State.bumping_tab (m : Nat) : (s.bumping d n k).tab m =
    if m = k.tab then (s.tab m).map fun t => t.mapNamed k fun l => { l with stage := .ready } else s.tab m := by
  rw [State.bumping, State.tab_setStation, State.bumped, State.stageLines_tab, State.tab_editTicket,
    State.tab_of ((State.takeOut_frame s n d).tabs (by simp))]

theorem State.bumping_ticket {k : Ticket} (hk : s.ticket n = some k) :
    (s.bumping d n k).ticket n = some { k with front := false, state := .bumped } := by
  rw [State.bumping, State.ticket_setStation, State.bumped, State.stageLines, State.ticket_editTab, State.ticket_editTicket_same,
    State.takeOut_ticket, hk]
  simp

theorem State.bumping_station (hd : isDrop d = true) : (s.bumping d n k).station d =
    (s.station d).bumpedAt n (s.sampleOf k) (clockAfter s.clock Config.recallWindow) := by
  have hst : (s.bumped d n k).station d = (s.takeOut n d).station d := rfl
  rw [State.bumping, State.station_setStation_same _ _ _ hd, hst, State.takeOut_station s n d hd]
  rfl

theorem State.bumping_station_other {e : Nat} (h : e ≠ d) : (s.bumping d n k).station e = s.station e := by
  rw [State.bumping, State.station_setStation_other _ _ _ _ h]
  exact State.takeOut_station_other s n d e h

end

theorem bumpRequest_notShown {d n : Nat} {s : State} (h : n ∉ s.screen d) : bumpRequest d n s = (s, refuse .notShown []) := by
  have hnot : (s.screen d).contains n = false := by simpa using h
  simp only [bumpRequest, hnot]
  rfl

theorem bumpRequest_bumps {d n : Nat} {k : Ticket} {s : State} (h : n ∈ s.screen d) (hk : s.ticket n = some k) :
    bumpRequest d n s =
      ((match (s.station d).lastBumped.bind (fun b => s.ticket b.ticket) with
        | some old => (bumpTicket d n k s).retireCheck old.tab
        | none => bumpTicket d n k s).retireCheck k.tab,
        okWith [u16 n, u16 k.tab, u8 (s.ticketLines k).length, u16 (s.sampleOf k)]) := by
  have hshown : (s.screen d).contains n = true := by simpa using h
  simp only [bumpRequest, hshown, if_true, hk, State.referencedTab]
  cases (s.station d).lastBumped.bind fun b => s.ticket b.ticket <;> rfl

theorem State.isStation_of_admits {s : State} {k : ReqKind} {src : Nat} (h : s.admits k src = true)
    (hc : roleAllows k .controller = false) (ht : roleAllows k .till = false) : s.isStation src = true := by
  obtain ⟨-, hask, -⟩ := (s.admits_iff k src).mp h
  have hd := (isDrop_iff src).mp (State.isDrop_of_admits h hc)
  have hne : src ≠ 0 := by omega
  rcases State.sender_of_admits h with h0 | htill | hstation
  · exact absurd h0 hne
  · have hsender : s.sender src = some .till := by simp [State.sender, hne, htill]
    simp [State.mayAsk, hsender, ht] at hask
  · exact hstation

/-- A station is no till. -/
theorem State.isTill_ne_station {s : State} {d e : Nat} (hd : s.isStation d = true) (he : s.isTill e = true) : e ≠ d := by
  rintro rfl
  simp only [State.isStation, State.isTill, Bool.and_eq_true, decide_eq_true_eq] at hd he
  exact absurd (hd.2.symm.trans he.2) (by decide)

/-- Settles O35. -/
theorem bumpFinishesTicket : Obligations.BumpFinishesTicket := by
  refine ⟨fun src n s ha hout => answers_of_owner rfl ha (bumpRequest_notShown hout), ?_⟩
  intro src n k t s ha hin hk ht sample
  have hstation := State.isStation_of_admits ha rfl rfl
  have hd := State.isDrop_of_admits ha rfl
  have hbumping := s.bumping_frame src n k
  have htill : (s.bumping src n k).openingTill k.tab = t.openingTill := by
    have htab := s.bumping_tab src n k k.tab
    rw [if_pos rfl, ht] at htab
    have hopening := State.openingTill_of_tab htab
    exact hopening
  have hu := bumpTicket_eq src n k s
  rw [htill] at hu
  have hnotify := State.notify_frame (s.bumping src n k) t.openingTill (.ready k.tab n src)
  have hnotice := NoticeFor.of_same (State.notify_noticeFor (s.bumping src n k) t.openingTill (.ready k.tab n src))
    (hbumping.lanes (by simp)) (hbumping.drops (by simp))
  obtain ⟨htold, -, huntold⟩ := hnotice
  have hst := hnotify.stations (by simp)
  generalize (s.bumping src n k).notify t.openingTill (.ready k.tab n src) = w at hu hnotify htold huntold hst
  have hwst (e : Nat) : w.station e = (s.bumping src n k).station e := State.station_of hst e
  have hwsrc : w.station src = _ := (hwst src).trans (s.bumping_station src n k hd)
  have hrefill := w.refilled_frame src (s.screen src) (some n)
  obtain ⟨hfillother, j, live, -, hfill, -, hlive, -⟩ := State.fillLive_spec w src
  have hout : n ∉ (w.station src).waiting := by
    rw [hwsrc]
    simp [Station.bumpedAt]
  have hsrc : (bumpTicket src n k s).station src = { w.station src with live := live, waiting := (w.station src).waiting.drop j } := by
    rw [hu, State.refilled_station, hfill]
  refine ⟨bumpTicket src n k s, answers_of_owner rfl ha (bumpRequest_bumps hin hk), bumpTicket_frame src n k s,
    ⟨{ k with front := false, state := .bumped }, ?_, rfl, rfl, rfl, rfl⟩, ?_, fun m hne => ?_, ?_, ?_, ?_, fun d hne => ?_,
    fun d hne htne => ?_, fun htill => ?_⟩
  · have hbefore : n ∈ s.screen src := hin
    rw [hu, State.refilled_ticket _ _ _ _ hout hbefore, State.ticket_of (hnotify.tickets (by simp)), State.bumping_ticket _ _ _ hk]
  · rw [hu, State.tab_of (hrefill.tabs (by simp)), State.tab_of (hnotify.tabs (by simp)), State.bumping_tab, if_pos rfl, ht]
    rfl
  · rw [hu, State.tab_of (hrefill.tabs (by simp)), State.tab_of (hnotify.tabs (by simp)), State.bumping_tab, if_neg hne]
  · rw [hsrc, hwsrc]
    rfl
  · rw [hsrc, hwsrc]
    rfl
  · rw [hsrc]
    intro hmem
    rcases hlive n hmem with h | h
    · exact hout (List.mem_of_mem_take h)
    · rw [hwsrc] at h
      simp [Station.bumpedAt] at h
  · rw [hu, State.refilled_station, hfillother d hne, hwst, State.bumping_station_other _ _ _ _ hne]
  · rw [hu, State.refilled_drop _ _ _ _ hne, huntold d htne]
  · rw [hu, State.refilled_drop _ _ _ _ (State.isTill_ne_station hstation htill), htold htill]

end Sys2Proof.Machine

/-! PROOFS. RECALL (O36) and LOAD-STATION (O38): the lists of a station. -/

namespace Sys2Proof.Machine

/-! ### Room for a recalled ticket (R114) -/

section
variable {s : State} {d : Nat}

theorem State.makeRoom_below (h : (s.station d).live.length < (s.station d).limit) : s.makeRoom d = s := by
  unfold State.makeRoom
  dsimp only
  split
  · exact if_neg (by omega)
  · rfl

theorem State.makeRoom_full {front : List Nat} {last : Nat} (hl : (s.station d).live = front ++ [last])
    (h : (s.station d).limit ≤ (s.station d).live.length) : s.makeRoom d = State.sendBack d s last := by
  have hlast : (s.station d).live.getLast? = some last := by simp [hl]
  simp only [State.makeRoom, hlast, if_pos h]

/-- Room is made by nothing, or by sending a LIVE ticket back. -/
theorem State.makeRoom_cases (s : State) (d : Nat) :
    s.makeRoom d = s ∨ ∃ last ∈ (s.station d).live, s.makeRoom d = State.sendBack d s last := by
  unfold State.makeRoom
  dsimp only
  split
  · rename_i last hlast
    split
    · exact .inr ⟨last, List.mem_of_getLast? hlast, rfl⟩
    · exact .inl rfl
  · exact .inl rfl

theorem State.sendBack_station (hd : isDrop d = true) (s : State) (n : Nat) : (State.sendBack d s n).station d =
    { s.station d with live := (s.station d).live.filter (· != n), waiting := n :: (s.station d).waiting } := by
  rw [State.sendBack, State.station_editTicket]
  exact State.station_setStation_same _ _ _ hd

theorem State.sendBack_station_other (s : State) (n : Nat) {e : Nat} (h : e ≠ d) : (State.sendBack d s n).station e = s.station e := by
  rw [State.sendBack, State.station_editTicket]
  exact State.station_setStation_other _ _ _ _ h

theorem State.sendBack_ticket_other (s : State) {n m : Nat} (h : m ≠ n) : (State.sendBack d s n).ticket m = s.ticket m := by
  rw [State.sendBack, State.ticket_editTicket_other _ _ _ _ h, State.ticket_setStation]

theorem State.makeRoom_station_other (s : State) {e : Nat} (h : e ≠ d) : (s.makeRoom d).station e = s.station e := by
  rcases s.makeRoom_cases d with hroom | ⟨last, -, hroom⟩
  · rw [hroom]
  · rw [hroom, State.sendBack_station_other _ _ h]

theorem State.makeRoom_ticket {n : Nat} (h : n ∉ (s.station d).live) : (s.makeRoom d).ticket n = s.ticket n := by
  rcases s.makeRoom_cases d with hroom | ⟨last, hlast, hroom⟩
  · rw [hroom]
  · have hne : n ≠ last := fun hn => h (hn ▸ hlast)
    rw [hroom, State.sendBack_ticket_other _ hne]

theorem State.makeRoom_depth (hd : isDrop d = true) : ((s.makeRoom d).station d).depth = (s.station d).depth := by
  rcases s.makeRoom_cases d with hroom | ⟨last, -, hroom⟩
  · rw [hroom]
  · rw [hroom, State.sendBack_station hd]

end

/-! ### RECALL (R114) -/

section
variable (d n : Nat) (k : Ticket) (s : State)

/-- The reference cleared and room made. -/
def State.unreferenced : State := s.setStation d { s.station d with lastBumped := none }

/-- The ticket at the front of LIVE, its lines SENT, before its notice. -/
def State.recalling : State :=
  (((s.unreferenced d).makeRoom d).setStation d
    { ((s.unreferenced d).makeRoom d).station d with live := n :: (((s.unreferenced d).makeRoom d).station d).live }).editTicket n
      (fun k => { k with state := .live, front := true, age := 0, level := 0, firstShown := none }) |>.stageLines k .sent

theorem recallTicket_eq : recallTicket d n k s =
    ((s.recalling d n k).notify (s.openingTill k.tab) (.recalled k.tab n d)).syncScreen d (s.screen d) none := rfl

theorem State.recalling_frame : SameBut [.tabs, .tickets, .stations] s (s.recalling d n k) :=
  ((((State.setStation_frame s d _).step (makeRoom_frame _ d) (rs := [.tabs, .tickets, .stations]) (by simp) (by simp)).step
    (State.setStation_frame ..) (List.Subset.refl _) (by simp)).step (State.editTicket_frame ..) (List.Subset.refl _) (by simp)).step
      (State.editTab_frame ..) (List.Subset.refl _) (by simp)

theorem State.recalling_tab (m : Nat) : (s.recalling d n k).tab m =
    if m = k.tab then (s.tab m).map fun t => t.mapNamed k fun l => { l with stage := .sent } else s.tab m := by
  rw [State.recalling, State.stageLines_tab, State.tab_editTicket, State.tab_setStation,
    State.tab_of ((makeRoom_frame _ d).tabs (by simp)), State.unreferenced, State.tab_setStation]

theorem State.recalling_station (hd : isDrop d = true) : (s.recalling d n k).station d =
    { ((s.unreferenced d).makeRoom d).station d with live := n :: (((s.unreferenced d).makeRoom d).station d).live } := by
  rw [State.recalling, State.stageLines, State.station_editTab, State.station_editTicket]
  exact State.station_setStation_same _ _ _ hd

theorem State.recalling_station_other {e : Nat} (h : e ≠ d) : (s.recalling d n k).station e = s.station e := by
  rw [State.recalling, State.stageLines, State.station_editTab, State.station_editTicket, State.station_setStation_other _ _ _ _ h,
    State.makeRoom_station_other _ h, State.unreferenced, State.station_setStation_other _ _ _ _ h]

end

section
variable {d n : Nat} {k : Ticket} {s : State} (hd : isDrop d = true)
include hd

theorem State.unreferenced_station : (s.unreferenced d).station d = { s.station d with lastBumped := none } :=
  State.station_setStation_same _ _ _ hd

theorem State.recalling_ticket (hk : s.ticket n = some k) (hn : n ∉ (s.station d).live) : (s.recalling d n k).ticket n =
    some { k with state := .live, front := true, age := 0, level := 0, firstShown := none } := by
  have hroom : ((s.unreferenced d).makeRoom d).ticket n = some k := by
    rw [State.makeRoom_ticket (by rw [State.unreferenced_station hd]; exact hn), State.unreferenced, State.ticket_setStation, hk]
  rw [State.recalling, State.stageLines, State.ticket_editTab, State.ticket_editTicket_same, State.ticket_setStation, hroom]
  rfl

/-- The recalled ticket leads the screen. -/
theorem State.recalling_screen (hr : (s.station d).inRange = true) : n ∈ (s.recalling d n k).screen d := by
  have hdepth : 1 ≤ (s.station d).depth := by
    simp only [Station.inRange, Bool.and_eq_true, decide_eq_true_eq] at hr
    omega
  have hsame : ((s.recalling d n k).station d).depth = (s.station d).depth := by
    rw [State.recalling_station _ _ _ _ hd]
    refine (State.makeRoom_depth hd).trans ?_
    rw [State.unreferenced_station hd]
  obtain ⟨m, hm⟩ := Nat.exists_eq_add_of_le' hdepth
  rw [State.screen, hsame, hm, State.recalling_station _ _ _ _ hd, List.take_succ_cons]
  exact List.mem_cons_self

theorem State.recalling_below (h : (s.station d).live.length < (s.station d).limit) :
    (s.recalling d n k).station d = { s.station d with lastBumped := none, live := n :: (s.station d).live } := by
  have hroom := State.makeRoom_below (s := s.unreferenced d) (d := d) (by rw [State.unreferenced_station hd]; exact h)
  rw [State.recalling_station _ _ _ _ hd, hroom, State.unreferenced_station hd]

theorem State.recalling_full {front : List Nat} {last : Nat} (hl : (s.station d).live = front ++ [last])
    (hnodup : (s.station d).live.Nodup) (h : (s.station d).live.length = (s.station d).limit) :
    (s.recalling d n k).station d =
      { s.station d with lastBumped := none, live := n :: front, waiting := last :: (s.station d).waiting } := by
  have hroom := State.makeRoom_full (s := s.unreferenced d) (d := d) (front := front) (last := last)
    (by rw [State.unreferenced_station hd]; exact hl) (by rw [State.unreferenced_station hd]; exact h.ge)
  have hfront : (front ++ [last]).filter (· != last) = front := by
    rw [hl, List.nodup_append] at hnodup
    have hout : last ∉ front := fun hmem => hnodup.2.2 last hmem last List.mem_cons_self rfl
    have hstay : front.filter (· != last) = front :=
      List.filter_eq_self.mpr fun x hx => bne_iff_ne.mpr fun (he : x = last) => hout (he ▸ hx)
    rw [List.filter_append, hstay]
    simp
  rw [State.recalling_station _ _ _ _ hd, hroom, State.sendBack_station hd, State.unreferenced_station hd]
  simp only [hl, hfront]

end

theorem recallRequest_none {d : Nat} {s : State} (h : (s.station d).lastBumped = none) :
    recallRequest d s = (s, refuse .noRecall []) := by
  simp only [recallRequest, h]

theorem recallRequest_recalls {d : Nat} {b : LastBumped} {k : Ticket} {s : State} (hb : (s.station d).lastBumped = some b)
    (hk : s.ticket b.ticket = some k) :
    recallRequest d s = (recallTicket d b.ticket k s, okWith [u16 b.ticket, u16 k.tab]) := by
  simp only [recallRequest, hb, hk]

/-- Settles O36. -/
theorem recallReturnsTicket : Obligations.RecallReturnsTicket := by
  intro src s ha
  have hd := State.isDrop_of_admits ha rfl
  have hstation := State.isStation_of_admits ha rfl rfl
  refine ⟨fun hnone => answers_of_owner rfl ha (recallRequest_none hnone), fun b k t hb hk ht hrange hout hnodup hle => ?_⟩
  have hrecalling := s.recalling_frame src b.ticket k
  have hv := recallTicket_eq src b.ticket k s
  rw [State.openingTill_of_tab ht] at hv
  have hnotify := State.notify_frame (s.recalling src b.ticket k) t.openingTill (.recalled k.tab b.ticket src)
  obtain ⟨htold, -, -⟩ := NoticeFor.of_same (State.notify_noticeFor (s.recalling src b.ticket k) t.openingTill
    (.recalled k.tab b.ticket src)) (hrecalling.lanes (by simp)) (hrecalling.drops (by simp))
  generalize (s.recalling src b.ticket k).notify t.openingTill (.recalled k.tab b.ticket src) = w at hv hnotify htold
  have hsync := State.syncScreen_frame w src (s.screen src) none
  rw [← hv] at hsync
  have hvst (e : Nat) : (recallTicket src b.ticket k s).station e = (s.recalling src b.ticket k).station e :=
    (State.station_of (hsync.stations (by simp)) e).trans (State.station_of (hnotify.stations (by simp)) e)
  have hvtab (m : Nat) : (recallTicket src b.ticket k s).tab m = (s.recalling src b.ticket k).tab m :=
    (State.tab_of (hsync.tabs (by simp)) m).trans (State.tab_of (hnotify.tabs (by simp)) m)
  refine ⟨recallTicket src b.ticket k s, answers_of_owner rfl ha (recallRequest_recalls hb hk),
    recallTicket_frame src b.ticket k s, ?_, ?_, fun m hne => ?_, fun d hne => ?_, fun hlt => ?_, fun front last hl hfull => ?_,
    fun htill => ?_⟩
  · have hshown : b.ticket ∈ w.screen src ∧ b.ticket ∉ s.screen src := by
      rw [State.screen_of (hnotify.stations (by simp))]
      exact ⟨State.recalling_screen hd hrange, fun hmem => hout (List.mem_of_mem_take hmem)⟩
    have hclock : w.clock = s.clock := (hnotify.clock (by simp)).trans (hrecalling.clock (by simp))
    rw [hv, State.syncScreen_ticket, State.ticket_of (hnotify.tickets (by simp)), State.recalling_ticket hd hk hout,
      Option.map_some, if_pos hshown, hclock]
    rfl
  · rw [hvtab, State.recalling_tab, if_pos rfl, ht]
    rfl
  · rw [hvtab, State.recalling_tab, if_neg hne]
  · rw [hvst, State.recalling_station_other _ _ _ _ hne]
  · rw [hvst, State.recalling_below hd hlt]
  · rw [hvst, State.recalling_full hd hl hnodup hfull]
  · rw [hv, State.syncScreen_other _ _ _ _ _ (State.isTill_ne_station hstation htill), htold htill]

end Sys2Proof.Machine

/-! PROOFS. LOAD-STATION (O38): the settings, and the lists at a new load limit. -/

namespace Sys2Proof.Machine

/-! ### The lists at a new limit (R104) -/

section
variable {s : State} {d old : Nat}

theorem State.relimit_same (h : (s.station d).limit = old) : s.relimit d old = s := by
  simp [State.relimit, h]

theorem State.relimit_raised (h : old < (s.station d).limit) : s.relimit d old = s.fillLive d := if_pos h

theorem State.relimit_lowered (h : (s.station d).limit < old) : s.relimit d old =
    (s.inFireOrder ((s.station d).live.drop (s.station d).limit)).foldl (State.sendBack d) s := by
  simp only [State.relimit, if_neg (show ¬old < (s.station d).limit by omega), if_pos h]

/-- A change of the limit moves only the two lists of its own station. -/
theorem State.relimit_station (hd : isDrop d = true) :
    (∃ live waiting, (s.relimit d old).station d = { s.station d with live := live, waiting := waiting }) ∧
      ∀ e, e ≠ d → (s.relimit d old).station e = s.station e := by
  rcases Nat.lt_trichotomy old (s.station d).limit with h | h | h
  · obtain ⟨hother, j, live, -, hown, -⟩ := State.fillLive_spec s d
    rw [State.relimit_raised h]
    exact ⟨⟨live, _, hown⟩, hother⟩
  · rw [State.relimit_same h.symm]
    exact ⟨⟨_, _, rfl⟩, fun _ _ => rfl⟩
  · obtain ⟨-, hother, hown⟩ := State.sendBack_fold d hd (s.inFireOrder ((s.station d).live.drop (s.station d).limit)) s
    rw [State.relimit_lowered h]
    exact ⟨⟨_, _, hown⟩, hother⟩

/-- How many tickets a raised limit admits. -/
def Station.room (st : Station) : Nat := min st.waiting.length (st.limit - st.live.length)

/-- Admission takes as many tickets from the front of WAITING as there is room for, each LIVE and no longer front-placed (R93). -/
theorem State.fillLive_full (hd : isDrop d = true) (h : ∀ n ∈ (s.station d).waiting, s.ticket n ≠ none) :
    ∃ live, (s.fillLive d).station d =
        { s.station d with live := live, waiting := (s.station d).waiting.drop (s.station d).room } ∧
      live.Perm ((s.station d).live ++ (s.station d).waiting.take (s.station d).room) ∧ (s.station d).live.Sublist live ∧
      ∀ m, (s.fillLive d).ticket m =
        (s.ticket m).map fun k => if m ∈ (s.station d).waiting.take (s.station d).room then k.admitted else k := by
  obtain ⟨live, hown, hperm, hsub⟩ := State.admitMany_full d hd _ s rfl h
  obtain ⟨-, j, live', hj, hown', -, -, -, -, hticket⟩ := State.fillLive_spec s d
  have hdrop : (s.station d).waiting.drop j = (s.station d).waiting.drop (s.station d).room :=
    congrArg Station.waiting (hown'.symm.trans hown)
  have hroom : j = (s.station d).room := by
    have hlen := congrArg List.length hdrop
    have hle : (s.station d).room ≤ (s.station d).waiting.length := Nat.min_le_left ..
    rw [List.length_drop, List.length_drop] at hlen
    omega
  subst hroom
  exact ⟨live, hown, hperm, hsub, hticket⟩

/-- The tickets a lowered limit cuts, as they go to the front of WAITING: the newest fired first. -/
def State.cutTickets (s : State) (d : Nat) : List Nat := (s.inFireOrder ((s.station d).live.drop (s.station d).limit)).reverse

theorem State.cutTickets_perm (s : State) (d : Nat) : (s.cutTickets d).Perm ((s.station d).live.drop (s.station d).limit) :=
  (List.reverse_perm _).trans (s.inFireOrder_perm _)

/-- What stays of a list without repetition when its end is taken out. -/
theorem filter_not_drop {l : List Nat} (h : l.Nodup) {ns : List Nat} {i : Nat} (hp : ns.Perm (l.drop i)) :
    l.filter (fun x => !ns.contains x) = l.take i := by
  have hsplit := List.take_append_drop i l
  have hdisjoint := (List.nodup_append.mp (hsplit.symm ▸ h)).2.2
  have hstays : (l.take i).filter (fun x => !ns.contains x) = l.take i := by
    refine List.filter_eq_self.mpr fun x hx => ?_
    have hout : x ∉ ns := fun hmem => hdisjoint x hx x (hp.mem_iff.mp hmem) rfl
    simpa using hout
  have hgoes : (l.drop i).filter (fun x => !ns.contains x) = [] := by
    refine List.filter_eq_nil_iff.mpr fun x hx => ?_
    simpa using hp.mem_iff.mpr hx
  calc l.filter (fun x => !ns.contains x) = (l.take i ++ l.drop i).filter (fun x => !ns.contains x) := by rw [hsplit]
    _ = l.take i := by rw [List.filter_append, hstays, hgoes, List.append_nil]

/-- A lowered limit cuts LIVE to it and puts the tickets cut in front of WAITING, front-placed (R104). -/
theorem State.relimit_cut (hd : isDrop d = true) (h : (s.station d).limit < old) (hnodup : (s.station d).live.Nodup) :
    (s.relimit d old).station d = { s.station d with
        live := (s.station d).live.take (s.station d).limit, waiting := s.cutTickets d ++ (s.station d).waiting } ∧
      ∀ m, (s.relimit d old).ticket m =
        (s.ticket m).map fun k => if m ∈ s.cutTickets d then { k with state := .waiting, front := true } else k := by
  obtain ⟨-, -, hown⟩ := State.sendBack_fold d hd (s.inFireOrder ((s.station d).live.drop (s.station d).limit)) s
  rw [State.relimit_lowered h]
  constructor
  · rw [hown, filter_not_drop hnodup (s.inFireOrder_perm _)]
    rfl
  · intro m
    rw [State.sendBack_ticket]
    simp only [State.cutTickets, List.mem_reverse]

theorem State.cutTickets_order (h : ∀ n ∈ (s.station d).live, s.ticket n ≠ none) :
    (s.cutTickets d).Pairwise fun a b => ∀ ka kb, s.ticket a = some ka → s.ticket b = some kb → FiredAfter s.clock ka kb := by
  have horder := s.inFireOrder_order ((s.station d).live.drop (s.station d).limit) fun m hm => h m (List.mem_of_mem_drop hm)
  refine List.pairwise_reverse.mpr (horder.imp fun {a b} hab ka kb ha hb => FiredAfter.of_not s.clock ka kb ?_)
  exact hab kb ka hb ha

end

/-! ### LOAD-STATION (R103 to R105) -/

theorem Station.loaded_eq (st : Station) (depth limit crew fallback prep interval : Nat) :
    st.loaded depth limit crew fallback prep interval =
      { st with
        depth := max 1 (min 8 depth), limit := max 1 (min 32 limit), crew := max 1 (min 8 crew),
        fallback := if fallback = 0 then none else some (min 32 fallback),
        defaultPrep := max 30 (min 1800 prep), interval := max 60 (min 600 interval),
        p16 := if max 30 (min 1800 prep) = st.defaultPrep then st.p16 else 16 * max 30 (min 1800 prep) } := by
  have hfallback : dropField (min 32 fallback) = if fallback = 0 then none else some (min 32 fallback) := by
    unfold dropField
    by_cases h : fallback = 0
    · simp [h]
    · simp [h]
  simp only [Station.loaded, clamp_eq _ _ _ (show 1 ≤ 8 by decide), clamp_eq _ _ _ (show 1 ≤ 32 by decide),
    clamp_eq _ _ _ (show 30 ≤ 1800 by decide), clamp_eq _ _ _ (show 60 ≤ 600 by decide), hfallback,
    Nat.mul_comm _ 16]

/-- The settings stored, the lists at the new limit, the screen compared. -/
def State.reloaded (s : State) (d : Nat) (st : Station) : State :=
  ((s.setStation d st).relimit d (s.station d).limit).syncScreen d (s.screen d) none

section
variable {s : State} {d : Nat} {st : Station} (hd : isDrop d = true)

theorem State.reloaded_station_eq (e : Nat) :
    (s.reloaded d st).station e = ((s.setStation d st).relimit d (s.station d).limit).station e :=
  State.station_of ((State.syncScreen_frame ..).stations (by simp)) e

include hd

theorem State.reloaded_settings : ∃ live waiting, (s.reloaded d st).station d = { st with live := live, waiting := waiting } := by
  obtain ⟨⟨live, waiting, hlists⟩, -⟩ := State.relimit_station (s := s.setStation d st) (old := (s.station d).limit) hd
  rw [State.station_setStation_same _ _ _ hd] at hlists
  exact ⟨live, waiting, (State.reloaded_station_eq d).trans hlists⟩

theorem State.reloaded_other {e : Nat} (h : e ≠ d) :
    (s.reloaded d st).station e = s.station e ∧ (s.reloaded d st).drop e = s.drop e := by
  obtain ⟨-, hother⟩ := State.relimit_station (s := s.setStation d st) (old := (s.station d).limit) hd
  constructor
  · rw [State.reloaded_station_eq, hother e h, State.station_setStation_other _ _ _ _ h]
  · rw [State.reloaded, State.syncScreen_other _ _ _ _ e h, State.drop_of ((relimit_frame ..).drops (by simp)), State.drop_setStation]

theorem State.reloaded_same (h : st.limit = (s.station d).limit) : (s.reloaded d st).station d = st := by
  have hown : (s.setStation d st).station d = st := State.station_setStation_same _ _ _ hd
  rw [State.reloaded_station_eq, State.relimit_same (by rw [hown]; exact h), hown]

theorem State.reloaded_raised (h : (s.station d).limit < st.limit) (hw : ∀ n ∈ st.waiting, s.ticket n ≠ none) :
    ((s.reloaded d st).station d).waiting = st.waiting.drop st.room ∧
      ((s.reloaded d st).station d).live.Perm (st.live ++ st.waiting.take st.room) ∧
      st.live.Sublist ((s.reloaded d st).station d).live ∧
      ∀ n ∈ st.waiting.take st.room, ∃ k, (s.reloaded d st).ticket n = some k ∧ k.state = .live ∧ k.front = false := by
  have hown : (s.setStation d st).station d = st := State.station_setStation_same _ _ _ hd
  have hfill := State.fillLive_full (s := s.setStation d st) hd
  rw [hown] at hfill
  obtain ⟨live, hlists, hperm, hsub, hticket⟩ := hfill fun n hn => by rw [State.ticket_setStation]; exact hw n hn
  have hrelimit := State.relimit_raised (s := s.setStation d st) (d := d) (old := (s.station d).limit) (by rw [hown]; exact h)
  have hst : (s.reloaded d st).station d = { st with live := live, waiting := st.waiting.drop st.room } := by
    rw [State.reloaded_station_eq, hrelimit, hlists]
  refine ⟨by rw [hst], by rw [hst]; exact hperm, by rw [hst]; exact hsub, fun n hn => ?_⟩
  obtain ⟨k, hk⟩ := Option.ne_none_iff_exists'.mp (hw n (List.mem_of_mem_take hn))
  rw [State.reloaded, State.syncScreen_ticket, hrelimit, hticket, State.ticket_setStation, hk, Option.map_some, if_pos hn, Option.map_some]
  refine ⟨_, rfl, ?_⟩
  split
  · exact ⟨rfl, rfl⟩
  · exact ⟨rfl, rfl⟩

theorem State.reloaded_lowered (h : st.limit < (s.station d).limit) (hnodup : st.live.Nodup) :
    (s.reloaded d st).station d =
        { st with live := st.live.take st.limit, waiting := (s.setStation d st).cutTickets d ++ st.waiting } ∧
      ∀ n ∈ (s.setStation d st).cutTickets d, ∀ k, s.ticket n = some k →
        (s.reloaded d st).ticket n = some { k with state := .waiting, front := true } := by
  have hown : (s.setStation d st).station d = st := State.station_setStation_same _ _ _ hd
  have hcut := State.relimit_cut (s := s.setStation d st) (old := (s.station d).limit) hd
  have hperm := State.cutTickets_perm (s.setStation d st) d
  rw [hown] at hcut hperm
  obtain ⟨hlists, hticket⟩ := hcut h hnodup
  refine ⟨(State.reloaded_station_eq d).trans hlists, fun n hn k hk => ?_⟩
  have hunseen : n ∉ ((s.setStation d st).relimit d (s.station d).limit).screen d := fun hmem => by
    have hin : n ∈ st.live.take st.limit := by
      have hscreen := List.mem_of_mem_take hmem
      rwa [hlists] at hscreen
    have hsplit := List.take_append_drop st.limit st.live
    exact (List.nodup_append.mp (hsplit.symm ▸ hnodup)).2.2 n hin n (hperm.mem_iff.mp hn) rfl
  rw [State.reloaded, State.syncScreen_ticket, hticket, State.ticket_setStation, hk, Option.map_some, if_pos hn, Option.map_some,
    if_neg fun hshown => hunseen hshown.1]

end

theorem loadStation_refused {d : Nat} (depth limit crew fallback prep interval : Nat) {s : State} (h : s.isStation d = false) :
    loadStation d depth limit crew fallback prep interval s = (s, refuse .badValue []) := if_pos h

theorem loadStation_stores {d : Nat} (depth limit crew fallback prep interval : Nat) {s : State} (h : s.isStation d = true) :
    let st := (s.station d).loaded depth limit crew fallback prep interval
    loadStation d depth limit crew fallback prep interval s = (s.reloaded d st,
      okWith [u8 st.depth, u8 st.limit, u8 st.crew, u8 (dropCode st.fallback), u16 st.defaultPrep, u16 st.interval, u16 st.p16]) :=
  if_neg (by simp [h])

/-- Settles O38. -/
theorem loadStationStoresSettings : Obligations.LoadStationStoresSettings := by
  intro d depth limit crew fallback prep interval s hm i old limit'
  have ha : s.admits .loadStation 0 = true := State.admits_controller hm rfl rfl
  refine ⟨fun h => answers_of_owner rfl ha (loadStation_refused depth limit crew fallback prep interval h), fun h => ?_⟩
  have hd : isDrop d = true := by
    simp only [State.isStation, Bool.and_eq_true] at h
    exact h.1
  have howner := loadStation_stores depth limit crew fallback prep interval h
  have hframe := loadStation_frame d depth limit crew fallback prep interval s
  have hst := Station.loaded_eq old depth limit crew fallback prep interval
  dsimp only at howner
  rw [howner] at hframe
  generalize (s.station d).loaded depth limit crew fallback prep interval = st at howner hst hframe
  obtain ⟨live, waiting, hsettings⟩ := State.reloaded_settings (s := s) (st := st) hd
  have hlimit : st.limit = limit' := by rw [hst]
  have hlive : st.live = old.live := by rw [hst]
  have hwaiting : st.waiting = old.waiting := by rw [hst]
  refine ⟨s.reloaded d st, ?_, hframe, fun e hne => State.reloaded_other hd hne, ?_, ?_, ?_, ?_, ?_, ?_, ?_, ?_, fun hsame => ?_,
    fun hraise htickets => ?_, fun hlower hnodup => ?_⟩
  · rw [hsettings]
    exact answers_of_owner rfl ha howner
  iterate 8 rw [hsettings, hst]
  · rw [State.reloaded_same hd (hlimit.trans hsame)]
    exact ⟨hlive, hwaiting⟩
  · intro room
    have hroom : st.room = room := by rw [Station.room, hlimit, hlive, hwaiting]
    have hraised := State.reloaded_raised hd (hlimit ▸ hraise) (hwaiting ▸ htickets)
    rwa [hroom, hlive, hwaiting] at hraised
  · have hown : (s.setStation d st).station d = st := State.station_setStation_same _ _ _ hd
    obtain ⟨hlists, hcut⟩ := State.reloaded_lowered hd (hlimit ▸ hlower) (hlive ▸ hnodup)
    have hperm := State.cutTickets_perm (s.setStation d st) d
    have horder := State.cutTickets_order (s := s.setStation d st) (d := d)
    rw [hown, hlive] at hperm horder
    rw [hlists, hlive, hlimit, hwaiting]
    refine ⟨rfl, _, hlimit ▸ hperm, rfl, hcut, fun hpresent => ?_⟩
    exact horder fun n hn => by rw [State.ticket_setStation]; exact hpresent n hn

end Sys2Proof.Machine

/-! PROOFS. SEND (O32): how many tickets it needs, the tickets it makes, and what becomes of each line. -/

namespace Sys2Proof.Machine

/-! ### The lines gathered and their groups (R81, R82, R84) -/

/-- Where a line goes. -/
def State.destOf (s : State) (l : Line) : Dest := s.resolve ((s.item l.item).bind Item.route)

/-- The lines a send gathers. -/
def Tab.gathered (t : Tab) : List Line := t.lines.filter fun l => !l.voided && l.stage == .unsent

theorem Tab.mem_gathered {t : Tab} {l : Line} : l ∈ t.gathered ↔ l ∈ t.lines ∧ l.voided = false ∧ l.stage = .unsent := by
  simp [Tab.gathered]

theorem State.gather_eq (s : State) (t : Tab) : s.gather t = t.gathered.map fun l => ⟨l, s.destOf l⟩ := rfl

theorem groupOf_gather (s : State) (t : Tab) (d : Dest) : groupOf (s.gather t) d = t.gathered.filter fun l => s.destOf l == d := by
  rw [groupOf, State.gather_eq, List.filter_map, List.map_map]
  exact List.map_id' _

theorem mem_group {s : State} {t : Tab} {d : Dest} {l : Line} : l ∈ groupOf (s.gather t) d ↔ l ∈ t.gathered ∧ s.destOf l = d := by
  rw [groupOf_gather, List.mem_filter, beq_iff_eq]

theorem gather_indices {t : Tab} (h : t.Sound) (s : State) : ((s.gather t).map fun r => r.line.index).Nodup := by
  obtain ⟨hrise, -⟩ := h
  have hnodup : (t.lines.map Line.index).Nodup := hrise.imp fun hlt => hlt.ne
  rw [State.gather_eq, List.map_map]
  exact (List.filter_sublist.map Line.index).nodup hnodup

theorem Tab.Sound.line_ext {t : Tab} (h : t.Sound) {l m : Line} (hl : l ∈ t.lines) (hm : m ∈ t.lines) (he : l.index = m.index) : l = m := by
  obtain ⟨hrise, -⟩ := h
  exact List.inj_on_of_nodup_map (hrise.imp fun hlt => hlt.ne) hl hm he

/-! ### How many tickets (R84, R85) -/

/-- The tickets a send makes. -/
def State.runsOf (s : State) (t : Tab) : List Run := runsFrom (s.gather t) [] (s.gather t)

/-- The stations a send's lines go to, one entry a line. -/
def State.placesOfSend (s : State) (t : Tab) : List Dest := (t.gathered.map s.destOf).filter (· != .lost)

/-- For each destination one ticket for every sixteen of its lines or part of sixteen. -/
theorem State.runsOf_length (s : State) (t : Tab) :
    (s.runsOf t).length = ((s.placesOfSend t).dedup.map fun d => ((s.placesOfSend t).count d + 15) / 16).sum := by
  have hmem {d : Dest} : d ∈ (s.placesOfSend t).dedup ↔ d ∈ t.gathered.map s.destOf ∧ d ≠ .lost := by
    rw [List.mem_dedup, State.placesOfSend, List.mem_filter, bne_iff_ne]
  have hcount := runsFrom_count (s.gather t) (s.placesOfSend t).dedup (List.nodup_dedup _) (fun h => (hmem.mp h).2 rfl) [] (s.gather t)
    fun r hr hd => by
      obtain ⟨l, hl, rfl⟩ := List.mem_map.mp (s.gather_eq t ▸ hr)
      exact hmem.mpr ⟨List.mem_map_of_mem hl, hd⟩
  have hnone : ((s.placesOfSend t).dedup.map fun d => ((groupOf [] d).length + 15) / 16).sum = 0 := by
    simp [groupOf]
  rw [hnone, Nat.zero_add] at hcount
  refine hcount.trans (congrArg List.sum (List.map_congr_left fun d hd => ?_))
  have hgroup : (groupOf (s.gather t) d).length = (s.placesOfSend t).count d := by
    rw [State.placesOfSend, List.count_filter (p := fun x : Dest => x != Dest.lost) (a := d) (bne_iff_ne.mpr (hmem.mp hd).2), groupOf_gather, ← List.countP_eq_length_filter,
      List.count, List.countP_map]
    rfl
  rw [List.nil_append, hgroup]

/-! ### What a send carries out (R83, R86) -/

section
variable (s : State) (n : Nat) (t : Tab) (rush : Bool)

/-- The lines whose route is lost. -/
def State.lostLines : List Line := groupOf (s.gather t) .lost

/-- The state with the lost routes dealt with. -/
def State.routesLost : State := (s.lostLines t).foldl (State.loseRoute n) s

/-- The state with the tickets made. -/
def State.ticketsMade : State := (s.runsOf t).foldl (State.makeTicket n rush) (s.routesLost n t)

theorem State.lostLines_length : (s.lostLines t).length = t.gathered.countP fun l => s.destOf l == .lost := by
  rw [State.lostLines, groupOf_gather, List.countP_eq_length_filter]

theorem State.routesLost_frame : SameBut [.tabs, .alerts, .alertsFull] s (s.routesLost n t) :=
  SameBut.foldl (fun u l => State.loseRoute_frame n u l) _ _

theorem State.ticketsMade_clock : (s.ticketsMade n t rush).clock = s.clock :=
  ((SameBut.foldl (fun u r => State.makeTicket_frame n rush u r) _ _).clock (by simp)).trans
    ((s.routesLost_frame n t).clock (by simp))

end

theorem zipWith_eq_map_zip {β : Type} (f : Run → β) (ns : List Nat) (runs : List Run) :
    List.zipWith (fun n r => (n, f r)) ns runs = (runs.zip ns).map fun p => (p.2, f p.1) := by
  induction ns generalizing runs with
  | nil => simp
  | cons n rest ih => cases runs <;> simp [ih]

/-- The numbers of a send's tickets, beside their runs. -/
structure SendMade (s : State) (n : Nat) (t : Tab) (rush : Bool) (ns : List Nat) : Prop where
  count : ns.length = (s.runsOf t).length
  fresh : (s.tickets.map Prod.fst ++ ns).Nodup
  tickets : (s.ticketsMade n t rush).tickets =
    s.tickets ++ ((s.runsOf t).zip ns).map fun p => (p.2, (s.routesLost n t).ticketOf n rush p.1)
  tabs : (s.ticketsMade n t rush).tabs =
    s.tabs.edit n fun t' => t'.mapLines fun l => (l.lostIn (s.lostLines t)).sentIn ((s.runsOf t).zip ns)

theorem State.send_made {s : State} (hk : s.TicketsOk) (n : Nat) {t : Tab} (rush : Bool)
    (hroom : s.tickets.length + (s.runsOf t).length ≤ 256) : ∃ ns, SendMade s n t rush ns := by
  obtain ⟨hnodup, -, hcounter, -⟩ := hk
  have hlost := s.routesLost_frame n t
  have htickets := hlost.tickets (by simp)
  obtain ⟨ns, hcount, hfresh, hmade, htabs⟩ := makeTicket_fold n rush (s.runsOf t) (s.routesLost n t) (by rw [htickets]; exact hnodup)
    (by rw [htickets]; exact hroom) (by rw [hlost.ticketCounter (by simp)]; exact hcounter)
  rw [htickets] at hfresh hmade
  refine ⟨ns, hcount, hfresh, by rw [← zipWith_eq_map_zip]; exact hmade, htabs.trans ?_⟩
  rw [State.routesLost, loseRoute_fold, Table.edit_edit]
  congr 1
  funext t'
  exact Tab.mapLines_mapLines ..

namespace SendMade
variable {s : State} {n : Nat} {t : Tab} {rush : Bool} {ns : List Nat} (h : SendMade s n t rush ns)
include h

theorem length : (s.ticketsMade n t rush).tickets.length = s.tickets.length + (s.runsOf t).length := by
  rw [h.tickets, List.length_append, List.length_map, List.length_zip, h.count, Nat.min_self]

theorem numbers : ((s.ticketsMade n t rush).tickets.drop s.tickets.length).map Prod.fst = ns := by
  rw [h.tickets, List.drop_left, ← zipWith_eq_map_zip, zipWith_keys _ _ _ h.count]

/-- Each run's ticket stands under a number that was free. -/
theorem ticket {p : Run × Nat} (hp : p ∈ (s.runsOf t).zip ns) : s.ticket p.2 = none ∧ p.2 ∈ ns ∧
    (s.ticketsMade n t rush).ticket p.2 = some ((s.routesLost n t).ticketOf n rush p.1) := by
  have hin : p.2 ∈ ns := (List.of_mem_zip hp).2
  have hkeys : ((s.ticketsMade n t rush).tickets.map Prod.fst).Nodup := by
    rw [h.tickets, List.map_append, ← zipWith_eq_map_zip, zipWith_keys _ _ _ h.count]
    exact h.fresh
  refine ⟨Table.find_eq_none.mpr fun hmem => (List.nodup_append.mp h.fresh).2.2 _ hmem _ hin rfl, hin, ?_⟩
  rw [State.ticket, Table.find_iff_mem hkeys, h.tickets]
  exact List.mem_append_right _ (List.mem_map.mpr ⟨p, hp, rfl⟩)

end SendMade

/-! ### The ticket of each line -/

/-- The run that holds an index, with its ticket's number. -/
def runWith (ps : List (Run × Nat)) (ix : Nat) : Option (Run × Nat) := ps.find? fun p => (p.1.lines.map Line.index).contains ix

section
variable {s : State} {t : Tab} (hs : t.Sound)
include hs

/-- A line of a run is a gathered line of the run's destination, known by its index. -/
theorem run_line {x : Run} (hx : x ∈ s.runsOf t) {l : Line} (hl : l ∈ t.lines) (h : l.index ∈ x.lines.map Line.index) :
    l ∈ x.lines ∧ l ∈ t.gathered ∧ s.destOf l = .to x.station x.original := by
  obtain ⟨m, hm, hindex⟩ := List.mem_map.mp h
  obtain ⟨hgathered, hdest⟩ := mem_group.mp ((run_lines _ x hx).2 m hm)
  obtain rfl := hs.line_ext (Tab.mem_gathered.mp hgathered).1 hl hindex
  exact ⟨hm, hgathered, hdest⟩

theorem lost_line {l : Line} (hl : l ∈ t.lines) (h : l.index ∈ (s.lostLines t).map Line.index) :
    l ∈ t.gathered ∧ s.destOf l = .lost := by
  obtain ⟨m, hm, hindex⟩ := List.mem_map.mp h
  obtain ⟨hgathered, hdest⟩ := mem_group.mp hm
  obtain rfl := hs.line_ext (Tab.mem_gathered.mp hgathered).1 hl hindex
  exact ⟨hgathered, hdest⟩

/-- A gathered line with a route stands in a run. -/
theorem runWith_gathered {ns : List Nat} (hcount : ns.length = (s.runsOf t).length) {l : Line} (hl : l ∈ t.gathered)
    (hd : s.destOf l ≠ .lost) :
    ∃ p, runWith ((s.runsOf t).zip ns) l.index = some p ∧ p ∈ (s.runsOf t).zip ns ∧ l ∈ p.1.lines ∧
      s.destOf l = .to p.1.station p.1.original := by
  obtain ⟨d, o, hto⟩ : ∃ d o, s.destOf l = .to d o := by
    match hdest : s.destOf l with
    | .lost => exact absurd hdest hd
    | .to d o => exact ⟨d, o, rfl⟩
  obtain ⟨x, hx, -, -, hline⟩ := run_of_line (s.gather t) d o l (mem_group.mpr ⟨hl, hto⟩)
  obtain ⟨i, hi, hxi⟩ := List.getElem_of_mem hx
  have hzip : (x, ns[i]'(hcount ▸ hi)) ∈ (s.runsOf t).zip ns := by
    refine List.mem_iff_getElem.mpr ⟨i, by rw [List.length_zip, hcount, Nat.min_self]; exact hi, ?_⟩
    rw [List.getElem_zip]
    exact Prod.ext hxi rfl
  have hfound : (runWith ((s.runsOf t).zip ns) l.index).isSome = true :=
    List.find?_isSome.mpr ⟨_, hzip, List.contains_iff_mem.mpr (List.mem_map_of_mem hline)⟩
  obtain ⟨p, hp⟩ := Option.isSome_iff_exists.mp hfound
  have hmem := List.mem_of_find?_eq_some hp
  obtain ⟨hin, -, hdest⟩ := run_line hs (List.of_mem_zip hmem).1 (Tab.mem_gathered.mp hl).1
    (List.contains_iff_mem.mp (List.find?_some (p := fun p : Run × Nat => (p.1.lines.map Line.index).contains l.index) hp))
  exact ⟨p, hp, hmem, hin, hdest⟩

/-- What a send makes of a line (R83, R86). -/
theorem sentLine_eq {ns : List Nat} (hcount : ns.length = (s.runsOf t).length) {l : Line} (hl : l ∈ t.lines) :
    (l.lostIn (s.lostLines t)).sentIn ((s.runsOf t).zip ns) =
      if l.voided = true ∨ l.stage ≠ .unsent then l
      else if s.destOf l = .lost then { l with stage := .none }
      else { l with stage := .sent, ticket := some (((runWith ((s.runsOf t).zip ns) l.index).map Prod.snd).getD 0) } := by
  by_cases hg : l ∈ t.gathered
  · obtain ⟨-, hv, hst⟩ := Tab.mem_gathered.mp hg
    rw [if_neg (by simp [hv, hst])]
    by_cases hd : s.destOf l = .lost
    · have hlost : l.index ∈ (s.lostLines t).map Line.index := List.mem_map_of_mem (mem_group.mpr ⟨hg, hd⟩)
      rw [if_pos hd, Line.lostIn, if_pos hlost]
      refine Line.sentIn_out _ _ fun p hp hin => ?_
      obtain ⟨-, -, hto⟩ := run_line hs (List.of_mem_zip hp).1 hl hin
      rw [hd] at hto
      cases hto
    · obtain ⟨p, hp, hmem, hin, -⟩ := runWith_gathered hs hcount hg hd
      have hnot : l.index ∉ (s.lostLines t).map Line.index := fun hlost => hd (lost_line hs hl hlost).2
      rw [if_neg hd, Line.lostIn, if_neg hnot, hp]
      refine Line.sentIn_run _ ?_ p hmem l (List.mem_map_of_mem hin)
      have hdisjoint := runs_disjoint (s.gather t) (gather_indices hs s) [] (s.gather t) rfl
      have hruns : ((s.runsOf t).zip ns).map Prod.fst = runsFrom (s.gather t) [] (s.gather t) := List.map_fst_zip hcount.ge
      rw [← hruns] at hdisjoint
      exact List.pairwise_map.mp hdisjoint
  · have hleft : l.voided = true ∨ l.stage ≠ .unsent := by
      by_contra hnot
      simp only [not_or, Bool.not_eq_true, not_not] at hnot
      exact hg (Tab.mem_gathered.mpr ⟨hl, hnot⟩)
    have hnot : l.index ∉ (s.lostLines t).map Line.index := fun hlost => hg (lost_line hs hl hlost).1
    rw [if_pos hleft, Line.lostIn, if_neg hnot]
    exact Line.sentIn_out _ _ fun p hp hin => hg (run_line hs (List.of_mem_zip hp).1 hl hin).2.1

end

/-! ### SEND (R80, R85, R86) -/

/-- What a send leaves: the tickets made, and fired unless they are to be held. -/
def State.sentWith (s : State) (n : Nat) (t : Tab) (hold rush : Bool) (ns : List Nat) : State :=
  if hold then s.ticketsMade n t rush else (s.ticketsMade n t rush).fireAll ns

theorem State.sendTab_full {s : State} {t : Tab} (n : Nat) (hold rush : Bool) (h : 256 - s.tickets.length < (s.runsOf t).length) :
    s.sendTab n t hold rush = .full (s.runsOf t).length (256 - s.tickets.length) := if_pos h

theorem SendMade.sendTab {s : State} {n : Nat} {t : Tab} {rush : Bool} {ns : List Nat} (h : SendMade s n t rush ns) (hold : Bool)
    (hroom : s.tickets.length + (s.runsOf t).length ≤ 256) :
    s.sendTab n t hold rush = .done (s.sentWith n t hold rush ns) ns (s.lostLines t).length := by
  have hfree : ¬256 - s.tickets.length < (s.runsOf t).length := by omega
  refine (if_neg hfree).trans ?_
  change Sent.done (if hold then s.ticketsMade n t rush else (s.ticketsMade n t rush).fireAll
    (((s.ticketsMade n t rush).tickets.drop s.tickets.length).map Prod.fst))
      (((s.ticketsMade n t rush).tickets.drop s.tickets.length).map Prod.fst) (s.lostLines t).length = _
  rw [h.numbers]
  rfl

section
variable {s : State} {tab : Nat} {t : Tab} {hold rush : Bool} (ht : s.tab tab = some t) (hw : t.writtenOff = false)
  (hkind : t.kind = .running ∨ t.state = .settled) (hg : t.gathered ≠ [])
include ht hw hkind hg

theorem sendRequest_sends : sendRequest tab hold rush s = match s.sendTab tab t hold rush with
    | .full needed free => (s, refuse .full [u8 needed, u8 free])
    | .done u made lost =>
      (if t.state = .settled then u.retireCheck tab else u, okWith [u8 made.length, u8 lost, u16 (u.sentQuote made)]) := by
  have hsendable : ¬t.sendable = false := by
    rcases hkind with h | h
    · simp [Tab.sendable, h]
    · simp [Tab.sendable, h]
  have hlines : ¬s.gather t = [] := fun hnil => hg (List.map_eq_nil_iff.mp (s.gather_eq t ▸ hnil))
  simp only [sendRequest, ht, hw, Bool.false_eq_true, if_false, if_neg hsendable, sendOf, if_neg hlines] <;> rfl

theorem sendRequest_full (h : 256 - s.tickets.length < (s.runsOf t).length) :
    sendRequest tab hold rush s = (s, refuse .full [u8 (s.runsOf t).length, u8 (256 - s.tickets.length)]) := by
  rw [sendRequest_sends ht hw hkind hg, State.sendTab_full tab hold rush h]

theorem SendMade.sendRequest {ns : List Nat} (h : SendMade s tab t rush ns)
    (hroom : s.tickets.length + (s.runsOf t).length ≤ 256) :
    Machine.sendRequest tab hold rush s =
      (if t.state = .settled then (s.sentWith tab t hold rush ns).retireCheck tab else s.sentWith tab t hold rush ns,
        okWith [u8 ns.length, u8 (s.lostLines t).length, u16 ((s.sentWith tab t hold rush ns).sentQuote ns)]) := by
  rw [sendRequest_sends ht hw hkind hg, h.sendTab hold hroom]

end

namespace SendMade
variable {s : State} {n : Nat} {t : Tab} {hold rush : Bool} {ns : List Nat} (h : SendMade s n t rush ns)

theorem fired : SameBut [.stations, .tickets, .fireCount, .drops] (s.ticketsMade n t rush) (s.sentWith n t hold rush ns) :=
  SameBut.ite (fun _ => SameBut.refl ..) fun _ => State.fireAll_frame ..

include h

theorem sent_length : (s.sentWith n t hold rush ns).tickets.length = s.tickets.length + (s.runsOf t).length := by
  rw [← h.length]
  unfold State.sentWith
  split
  · rfl
  · exact (fireAll_like _ ns).length

theorem sent_tab (m : Nat) : (s.sentWith n t hold rush ns).tab m = if m = n then
    (s.tab m).map fun t' => t'.mapLines fun l => (l.lostIn (s.lostLines t)).sentIn ((s.runsOf t).zip ns) else s.tab m := by
  have htabs : (s.sentWith n t hold rush ns).tabs = _ := (fired.tabs (by simp)).trans h.tabs
  exact (State.tab_of (s := s.editTab n _) htabs m).trans (State.editTab_tab ..)

/-- Each run's ticket after the send: as made when held, and otherwise fired at the clock. -/
theorem sent_ticket {p : Run × Nat} (hp : p ∈ (s.runsOf t).zip ns) : ∃ k, (s.sentWith n t hold rush ns).ticket p.2 = some k ∧
    k.tab = n ∧ k.station = p.1.station ∧ k.original = p.1.original ∧ k.refs = p.1.lines.map (fun l => ⟨l.index, false⟩) ∧ k.rush = rush ∧
    if hold then k.state = .held ∧ k.fired = none else (k.state = .waiting ∨ k.state = .live) ∧ k.fired = some s.clock := by
  obtain ⟨-, hin, hk⟩ := h.ticket hp
  cases hold with
  | true => exact ⟨_, hk, rfl, rfl, rfl, rfl, rfl, rfl, rfl⟩
  | false =>
    obtain ⟨k, hk', hfired, hstate, hstation, hrefs, htab, horiginal, hrush⟩ := fireAll_self _ ns p.2 _ hk hin
    rw [State.ticketsMade_clock] at hfired
    exact ⟨k, hk', htab, hstation, horiginal, hrefs, hrush, hstate, hfired⟩

end SendMade

/-- Settles O32: the tickets are the runs of the gathered lines, and each line is SENT on the ticket of its run. -/
theorem sendStagesEveryUnsentLine : Obligations.SendStagesEveryUnsentLine := by
  intro src tab hold rush t s ha ht hw hkind hk hs gathered dest places needed hg
  have hneeded : needed = (s.runsOf t).length := (s.runsOf_length t).symm
  refine ⟨fun hfull => ?_, fun hroom => ?_⟩
  · rw [hneeded] at hfull ⊢
    exact answers_of_owner rfl ha (sendRequest_full ht hw hkind hg hfull)
  · rw [hneeded] at hroom ⊢
    obtain ⟨ns, hmade⟩ := State.send_made hk tab rush hroom
    have howner := hmade.sendRequest (hold := hold) ht hw hkind hg hroom
    rw [hmade.count, s.lostLines_length t] at howner
    refine ⟨s.sentWith tab t hold rush ns, _, fun ix => ((runWith ((s.runsOf t).zip ns) ix).map Prod.snd).getD 0,
      answers_of_owner rfl ha howner, State.sendTab_frame (hmade.sendTab hold hroom), hmade.sent_length, ?_, fun m hne => ?_,
      fun l hl hd => ?_⟩
    · rw [hmade.sent_tab, if_pos rfl, ht, Option.map_some, Tab.mapLines]
      rw [List.map_congr_left fun l hl => sentLine_eq hs hmade.count hl]
      rfl
    · rw [hmade.sent_tab, if_neg hne]
    · obtain ⟨p, hp, hmem, hin, hto⟩ := runWith_gathered hs hmade.count hl hd
      obtain ⟨k, hk', htab, hstation, horiginal, hrefs, hrush, hstate⟩ := hmade.sent_ticket (hold := hold) hmem
      obtain ⟨hfree, -, -⟩ := hmade.ticket hmem
      have href : ((runWith ((s.runsOf t).zip ns) l.index).map Prod.snd).getD 0 = p.2 := by rw [hp]; rfl
      dsimp only
      rw [href]
      refine ⟨hfree, k, hk', htab, ?_, ?_, ?_, hrush, hstate⟩
      · rw [hstation, horiginal]
        exact hto
      · rw [hrefs]
        exact List.mem_map.mpr ⟨l, hin, rfl⟩
      · rw [hrefs, List.length_map]
        exact (run_lines _ _ (List.of_mem_zip hmem).1).1

end Sys2Proof.Machine
